-- ==== Sys2Proof/Word.lean ====
section
/-! DEFINITION. The two bit-vector types of the block: the 32-bit word of the host's accesses, of CMD and of the scalar
registers (R12, R20), and the byte of the two buffers and of the RNG port (R17, R18, R72). Operand registers hold natural
numbers (R14) and are no bit vectors. -/

namespace Sys2Proof

/-- A 32-bit word: what one host access carries and what a scalar register holds (R20, R44). -/
abbrev Word := BitVec 32

/-- One byte of a buffer or one answer of the RNG source (R17, R72). -/
abbrev Byte := BitVec 8

end Sys2Proof
end

