-- ==== Sys2Proof/Config.lean ====
section
/-! DEFINITION. What one implementation of the block fixes (the parameter MAXBITS, R8) and the one free value the spec
leaves open (the word an unspecified read returns, R51 (c)). -/

namespace Sys2Proof

/-- The build-time parameter of the block: MAXBITS, the width of every operand register (R8). State holds it as a field
that no step changes, so that every claim is about every legal width (log 4). -/
structure Config where
  maxbits : Nat
deriving DecidableEq, Repr

/-- NW = MAXBITS/32, the number of 32-bit words of an operand register (R8). -/
def Config.nw (c : Config) : Nat := c.maxbits / 32

/-- NB = MAXBITS/8, the number of bytes of a buffer (R8). -/
def Config.nb (c : Config) : Nat := c.maxbits / 8

/-- The width R8 names as its reference value. DESIGN CHOICE (log 4): State.reset is a block of this width. -/
def Config.reference : Config := { maxbits := 2048 }

/-- The value of the n-th unspecified HostRead (R51 (c), U3: any value). Free: it has no body (log 6). -/
opaque Config.freeWord : Nat → Word

end Sys2Proof
end

