-- ==== Sys2Proof/Syntax.lean ====
section
/-! DEFINITION. The commands of the block, one constructor per row of spec/opcode_table.json (R60). No command has an
operand in its word (R61), so no constructor has an argument. An illegal word (R62) is no command: the decoder rejects it
and the machine completes it with BadCommand. -/

namespace Sys2Proof

/-- The twelve commands of R60, in the table's order. -/
inductive Instr where
  | nop        -- 0x00, R117
  | montmul    -- 0x01, R83
  | modmul     -- 0x02, R84
  | modexp     -- 0x03, R91
  | mrtest     -- 0x04, R100
  | pad        -- 0x05, R109
  | unpad      -- 0x06, R111
  | randbits   -- 0x07, R78
  | randrange  -- 0x08, R79
  | blk2int    -- 0x09, R115
  | int2blk    -- 0x0A, R116
  | clr        -- 0x0B, R118
deriving DecidableEq, Repr

end Sys2Proof
end

