-- ==== Sys2Proof/WellFormed.lean ====
section
/-! DEFINITION. The checks of the spec on terms: the parameter MAXBITS (R8), a command word (R59, R62), a host access
(R12, R44), and a command as a term, which has nothing to check because no command has an operand (R61). -/

namespace Sys2Proof

/-- MAXBITS is a multiple of 32 with 128 <= MAXBITS <= 4096 (R8). -/
def Config.legal (c : Config) : Bool := c.maxbits % 32 == 0 && 128 ≤ c.maxbits && c.maxbits ≤ 4096

/-- A command word is legal when RSV (bits 31:8) is 0 and OP (bits 7:0) is one of 0x00..0x0B (R60, R62). -/
def wordLegal (w : Word) : Bool := w.extractLsb' 8 24 == 0#24 && w.extractLsb' 0 8 ≤ 0x0B#8

/-- A host access is an operation of the interface when it is 4 bytes wide, its offset is a multiple of 4 and lies in
0x000..0xFFF (R12, R44). -/
def accessLegal (addr n : Nat) : Bool := n == 4 && addr % 4 == 0 && addr < 0x1000

/-- Every term of Instr is well formed: no command has an immediate, a selector or any operand (R61). -/
def Instr.wf : Instr → Bool
  | .nop => true
  | .montmul => true
  | .modmul => true
  | .modexp => true
  | .mrtest => true
  | .pad => true
  | .unpad => true
  | .randbits => true
  | .randrange => true
  | .blk2int => true
  | .int2blk => true
  | .clr => true

end Sys2Proof
end

