-- ==== Sys2Proof/Decode.lean ====
section
/-! DEFINITION. The decoder, total on every 32-bit word, and the encoder, both from R59, R60 and R62. -/

namespace Sys2Proof

/-- Why a word written to CMD is no command (R62). -/
inductive DecodeReject where
  | reservedBits (rsv : BitVec 24)   -- RSV is not 0, whatever OP is
  | reservedOpcode (op : BitVec 8)   -- RSV is 0 and OP is in 0x0C..0xFF
deriving DecidableEq, Repr

/-- What the decoder answers for a word: one of the twelve commands, or illegal with the reason (R62). -/
inductive Decoded where
  | command (i : Instr)
  | illegal (r : DecodeReject)
deriving DecidableEq, Repr

/-- OP, bits 7:0 of a command word (R59). -/
def opField (w : Word) : BitVec 8 := w.extractLsb' 0 8

/-- RSV, bits 31:8 of a command word (R59). -/
def rsvField (w : Word) : BitVec 24 := w.extractLsb' 8 24

/-- The command of an opcode, for the twelve opcodes of R60. -/
def commandOfOp (op : BitVec 8) : Option Instr :=
  match op.toNat with
  | 0x00 => some .nop
  | 0x01 => some .montmul
  | 0x02 => some .modmul
  | 0x03 => some .modexp
  | 0x04 => some .mrtest
  | 0x05 => some .pad
  | 0x06 => some .unpad
  | 0x07 => some .randbits
  | 0x08 => some .randrange
  | 0x09 => some .blk2int
  | 0x0A => some .int2blk
  | 0x0B => some .clr
  | _ => none

/-- The decoder of R62: every 32-bit word is one of the twelve words of R60 or illegal. -/
def decode (w : Word) : Decoded :=
  if rsvField w = 0#24 then
    match commandOfOp (opField w) with
    | some i => .command i
    | none => .illegal (.reservedOpcode (opField w))
  else .illegal (.reservedBits (rsvField w))

/-- The opcode of a command (R60). -/
def opcodeOf : Instr → BitVec 8
  | .nop => 0x00#8
  | .montmul => 0x01#8
  | .modmul => 0x02#8
  | .modexp => 0x03#8
  | .mrtest => 0x04#8
  | .pad => 0x05#8
  | .unpad => 0x06#8
  | .randbits => 0x07#8
  | .randrange => 0x08#8
  | .blk2int => 0x09#8
  | .int2blk => 0x0A#8
  | .clr => 0x0B#8

/-- The word of a command: OP in bits 7:0, RSV = 0 above it (R59). -/
def encode (i : Instr) : Word := 0#24 ++ opcodeOf i

/-- The command word as the opcode table numbers its bits: the bits at and above nbits are 0 (R59, R63: one word, no
second word). CMD is written as one 32-bit value, so there is no byte order to choose (R54, log 17). -/
def wordOfTable (nbits w : Nat) : Word := BitVec.ofNat 32 (w % 2 ^ nbits)

/-- The command the decoder reads from a table word of at most 32 bits; none where it rejects it. -/
def decodeTableWord (nbits w : Nat) : Option Instr :=
  if nbits ≤ 32 then
    match decode (wordOfTable nbits w) with
    | .command i => some i
    | .illegal _ => none
  else none

end Sys2Proof
end

