-- ==== Sys2Proof/Machine/State.lean ====
section
/-! DEFINITION. The state of the block as plain data: every register, buffer, flag and piece of hidden state that
spec/10_state.md names, the level of the reset input, and the model's own fields (who moves next, the value the last read
returned, the counter of free reads). Registers keep the manual's names. -/

namespace Sys2Proof.Machine

/-- The result codes of R126. The codes 0x0A..0xFF are never produced and have no constructor (log 20). -/
inductive ResultCode where
  | ok                        -- 0x00
  | secureRandomUnavailable   -- 0x01, fatal
  | dataTooLong               -- 0x02, fatal
  | invalidPadding            -- 0x03, not fatal (R129)
  | modulusRejected           -- 0x04, fatal
  | evenModulus               -- 0x05, fatal
  | badLength                 -- 0x06, fatal
  | badRange                  -- 0x07, fatal
  | valueTooLarge             -- 0x08, fatal
  | badCommand                -- 0x09, fatal
deriving DecidableEq, Repr

/-- One answer of the RNG source to an RngByte request (R72). -/
inductive RngAnswer where
  | ok (b : Byte)
  | unavailable
deriving DecidableEq, Repr

/-- One move of an agent (R13). The list of moves in State says who moves next (log 1). -/
inductive Turn where
  /-- The host performs MemRead(addr, n); HostRead is the case n = 4 (R12, R44). -/
  | hostRead (addr n : Nat)
  /-- The host performs MemWrite(addr, n, v); HostWrite is the case n = 4 (R12, R44). -/
  | hostWrite (addr n : Nat) (v : Word)
  /-- The RNG source answers the outstanding request (R72). -/
  | rngAnswer (a : RngAnswer)
  /-- The answer to a request that a reset withdrew arrives late (R142). -/
  | rngStale (a : RngAnswer)
  /-- The reset input is driven to this level (R141). -/
  | rst (level : Bool)
  /-- The block takes its next step (R120). -/
  | block
deriving DecidableEq, Repr

/-- The STATUS bits of R22, one field each. Bits 31:6 have no storage: they read 0 and ignore writes (R32). -/
structure Status where
  BUSY : Bool     -- bit 0
  DONE : Bool     -- bit 1
  ERR : Bool      -- bit 2
  PRIME : Bool    -- bit 3
  PADFB : Bool    -- bit 4
  WRBUSY : Bool   -- bit 5
deriving DecidableEq, Repr

/-- The two enables of IEN (R24). Bits 31:2 have no storage (R32). -/
structure Enables where
  IE_DONE : Bool   -- bit 0
  IE_ERR : Bool    -- bit 1
deriving DecidableEq, Repr

/-- A byte buffer: the bytes that are not 0, with their indices strictly rising. An unlisted byte reads 0, which is what
every byte holds after reset (R17, R18, R38; log 13). -/
abbrev Memory := List Host.Cell

/-- The machine. -/
structure State where
  /-- The parameter MAXBITS (R8); no step changes it (log 4). CAP reads it (R30). -/
  cfg : Config
  /-- Operand registers: natural numbers below 2^MAXBITS (R14). -/
  A : Nat
  B : Nat
  E : Nat
  N : Nat
  R : Nat
  /-- The block buffer (R17). -/
  BLK : Memory
  /-- The chunk buffer (R18). -/
  DATA : Memory
  /-- The last accepted command word (R21). -/
  CMD : Word
  STATUS : Status
  /-- The result code; its word has bits 31:8 zero (R23). -/
  RC : ResultCode
  IEN : Enables
  K : Word
  BITLEN : Word
  BLKSIZE : Word
  DLEN : Word
  FBCNT : Word
  RNDCNT : Word
  /-- Hidden state (R35): the RNG answers the running command has received, in order. The pseudocode variables of the
  running command are functions of its inputs and of these (log 3). -/
  drawn : List RngAnswer
  /-- Hidden state (R35, R55): an RngByte request is outstanding. -/
  rngReq : Bool
  /-- The level of the reset input (R141; log 8). -/
  rst : Bool
  /-- The model's own: who moves next, oldest first (log 1). -/
  turns : List Turn
  /-- The model's own: what the last HostRead returned (log 5). -/
  readData : Option Word
  /-- The model's own: how many unspecified reads have taken a free value (log 6). -/
  freeCount : Nat
deriving DecidableEq, Repr

/-- The block never stops with a fault: every error is a command that completes with a result code (R125, R134), and an
unanswered request leaves it BUSY (R148). So there is no constructor (safe; log 21). -/
inductive Fault
deriving DecidableEq, Repr

/-- What the model gives no meaning. -/
inductive Refusal where
  /-- Raised by an arm of exec that has no meaning yet; safe. No arm of this model is refused. -/
  | notModelled (mnemonic : String)
  /-- Raised by a host access that is not 4 bytes wide: R44 says a model must refuse it; safe (log 9). -/
  | accessWidth (n : Nat)
  /-- Raised by a host access whose offset is no multiple of 4: R44 says a model must refuse it; safe (log 9). -/
  | misalignedAccess (addr : Nat)
  /-- Raised by a host access outside 0x000..0xFFF: U8 says refuse; safe (log 9). -/
  | accessOutside (addr : Nat)
deriving DecidableEq, Repr

/-- What one step answers. -/
abbrev Result := Host.Outcome State Fault Refusal

/-- The machine after reset (R38, R141): everything 0 except K = 5; CAP reads MAXBITS, here the reference width (log 4). -/
def State.reset : State where
  cfg := Config.reference
  A := 0
  B := 0
  E := 0
  N := 0
  R := 0
  BLK := []
  DATA := []
  CMD := 0#32
  STATUS := { BUSY := false, DONE := false, ERR := false, PRIME := false, PADFB := false, WRBUSY := false }
  RC := .ok
  IEN := { IE_DONE := false, IE_ERR := false }
  K := 5#32
  BITLEN := 0#32
  BLKSIZE := 0#32
  DLEN := 0#32
  FBCNT := 0#32
  RNDCNT := 0#32
  drawn := []
  rngReq := false
  rst := false
  turns := []
  readData := none
  freeCount := 0

end Sys2Proof.Machine
end

