-- ==== Sys2Proof/Machine/Ops.lean ====
section
/-! DEFINITION. The named operations over buffers, byte strings, RNG answers and the command protocol: start (R119),
completion (R121), the fatal completion that stands for an exception here (R128, R134), and reset (R141, R142). -/

namespace Sys2Proof.Machine

/-! ### Buffers -/

/-- What an unlisted byte of a buffer reads as: its reset contents, 0 (R17, R18, R38). -/
def Memory.unlisted : Byte := 0#8

/-- Byte a of a buffer. -/
def Memory.read : Memory → Nat → Byte
  | [], _ => Memory.unlisted
  | (x, v) :: m, a => if x = a then v else Memory.read m a

/-- The buffer without an entry for a. -/
def Memory.erase : Memory → Nat → Memory
  | [], _ => []
  | (x, v) :: m, a => if x = a then Memory.erase m a else (x, v) :: Memory.erase m a

/-- The buffer with an entry (a, v) put before the first greater index. -/
def Memory.insert : Memory → Nat → Byte → Memory
  | [], a, v => [(a, v)]
  | (x, c) :: m, a, v => if a < x then (a, v) :: (x, c) :: m else (x, c) :: Memory.insert m a v

/-- Write one byte, keeping the canonical form: writing the unlisted value removes the entry. -/
def Memory.write (m : Memory) (a : Nat) (v : Byte) : Memory :=
  if v = Memory.unlisted then Memory.erase m a else Memory.insert (Memory.erase m a) a v

/-- Write the byte string at indices a, a+1, ... -/
def Memory.writeBytes : Memory → Nat → List Byte → Memory
  | m, _, [] => m
  | m, a, v :: vs => Memory.writeBytes (Memory.write m a v) (a + 1) vs

/-- The byte string X[a .. a+n-1]. -/
def Memory.readBytes (m : Memory) : Nat → Nat → List Byte
  | _, 0 => []
  | a, n + 1 => Memory.read m a :: Memory.readBytes m (a + 1) n

/-- Indices strictly rising from lo on, and no entry equal to the unlisted value. -/
def Memory.wfFrom : Nat → Memory → Bool
  | _, [] => true
  | lo, (x, v) :: m => lo ≤ x && v != Memory.unlisted && Memory.wfFrom (x + 1) m

/-- The canonical form of a buffer. -/
def Memory.wf (m : Memory) : Bool := Memory.wfFrom 0 m

/-- Every listed index is below nb: the buffer holds nothing beyond its NB bytes (R17, R18). -/
def Memory.below (nb : Nat) (m : Memory) : Bool := m.all fun c => decide (c.1 < nb)

/-! ### Numbers and byte strings (R10, R11) -/

/-- bitlen(x): 0 for 0, otherwise the L with 2^(L-1) <= x < 2^L (R10). -/
def bitlen (x : Nat) : Nat := if x = 0 then 0 else Nat.log2 x + 1

/-- ceil(a/b) (R10). -/
def ceilDiv (a b : Nat) : Nat := (a + b - 1) / b

/-- be2int with the bytes read so far as acc: first byte most significant (R11, R48). -/
def be2intFrom : Nat → List Byte → Nat
  | acc, [] => acc
  | acc, v :: vs => be2intFrom (acc * 256 + v.toNat) vs

/-- be2int(b): the number a byte string stands for, big-endian, 0 for the empty one (R11, R48). -/
def be2int (bs : List Byte) : Nat := be2intFrom 0 bs

/-- int2be(v, L): the L bytes of v, most significant first (R11). -/
def int2be (v : Nat) : Nat → List Byte
  | 0 => []
  | len + 1 => BitVec.ofNat 8 (v / 256 ^ len) :: int2be v len

/-! ### Drawing random bytes (R72) -/

/-- What a piece of pseudocode that draws bytes comes to on the answers received so far. -/
inductive Draw (α : Type) where
  /-- It ends with a value; rest are the answers it did not use. -/
  | done (v : α) (rest : List RngAnswer)
  /-- An answer was `unavailable` (R73). -/
  | unavailable
  /-- It needs one more answer (R72). -/
  | wait
deriving DecidableEq, Repr

/-- Go on with the value and the answers left over. -/
def Draw.andThen {α β : Type} (d : Draw α) (f : α → List RngAnswer → Draw β) : Draw β :=
  match d with
  | .done v rest => f v rest
  | .unavailable => .unavailable
  | .wait => .wait

/-- n successive RngByte() transactions, the first answer being the first byte (R72). -/
def drawBytes : Nat → List RngAnswer → Draw (List Byte)
  | 0, ans => .done [] ans
  | _ + 1, [] => .wait
  | _ + 1, .unavailable :: _ => .unavailable
  | n + 1, .ok v :: ans => (drawBytes n ans).andThen fun vs rest => .done (v :: vs) rest

/-! ### The command protocol -/

/-- Command start (R119): the word is latched, BUSY is set, the result flags and RC are cleared, and the command begins
with no answer and no request (R73). WRBUSY is unchanged. -/
def startCommand (w : Word) (s : State) : State :=
  { s with
    CMD := w
    STATUS := { s.STATUS with BUSY := true, DONE := false, ERR := false, PRIME := false, PADFB := false }
    RC := .ok
    drawn := []
    rngReq := false }

/-- What every completion does: RC gets the code, BUSY falls, DONE rises, the hidden state is gone (R34, R121, R128). -/
def finish (code : ResultCode) (s : State) : State :=
  { s with
    STATUS := { s.STATUS with BUSY := false, DONE := true }
    RC := code
    drawn := []
    rngReq := false }

/-- `complete` (R121). ERR stays as the start left it, 0 (log 12). -/
def complete (s : State) : State := finish .ok s

/-- `raise <Kind>` (R128, R134): the block's exception entry. It is applied to the state the command started from, so
that every write of the pseudocode is discarded (R136). PRIME and PADFB stay as the start left them (log 12). -/
def raise (kind : ResultCode) (s : State) : State :=
  { finish kind s with STATUS := { (finish kind s).STATUS with ERR := true } }

/-- The block issues an RngByte request and stays BUSY (R72). -/
def requestByte (s : State) : State := { s with rngReq := true }

/-- A drawing command comes to its end, to the error of R73, or to its next request. -/
def settle {α : Type} (d : Draw α) (effect : α → State) (s : State) : Result :=
  match d with
  | .done v _ => .next (complete (effect v))
  | .unavailable => .next (raise .secureRandomUnavailable s)
  | .wait => .next (requestByte s)

/-! ### The RNG port and the reset input -/

/-- The source answers (R72): the answer goes to the outstanding request; with none outstanding it is dropped (log 11). -/
def acceptAnswer (a : RngAnswer) (s : State) : State :=
  if s.rngReq then { s with drawn := s.drawn ++ [a], rngReq := false } else s

/-- Every piece of the block's state at its value of R38. The parameter, the moves to come, the value the last read
returned and the count of free reads are no state of the block and stay. -/
def resetBlock (s : State) : State :=
  { State.reset with cfg := s.cfg, rst := s.rst, turns := s.turns, readData := s.readData, freeCount := s.freeCount }

/-- The reset input is driven to a level (R141, R142): while it is asserted, and at its release, all state has the values
of R38. Driving it low when it is low changes nothing. -/
def driveReset (level : Bool) (s : State) : State :=
  if level || s.rst then { resetBlock s with rst := level } else s

/-- Where the block's next command word stands: the latched word in CMD (R19, R21). -/
def fetchWord (s : State) : Word := s.CMD

/-- The block can move: a command is running and the reset input is low (R19, R141). -/
def running (s : State) : Bool := s.STATUS.BUSY && !s.rst

/-- The state in which the next step runs the command word w: as right after a host write of w to CMD (R119), with the
block to move next and the reset input low (log 2). -/
def placeCommand (w : Word) (s : State) : State :=
  { startCommand w s with rst := false, turns := .block :: s.turns }

end Sys2Proof.Machine
end

