-- ==== Sys2Proof/Machine/Modexp.lean ====
section
/-! DEFINITION. The modular product (R81), square-and-multiply (R90) and the command MODEXP (R91). -/

namespace Sys2Proof.Machine

/-- modmul(a, b, n) = (a * b) mod n, the product exact (R81). -/
def modmul (a b n : Nat) : Nat := a * b % n

/-- The loop of R90; the fuel bounds the number of halvings. -/
def modPowLoop (n : Nat) : Nat → Nat → Nat → Nat → Nat
  | 0, result, _, _ => result
  | fuel + 1, result, base, exp =>
    if exp = 0 then result
    else modPowLoop n fuel (if exp % 2 = 1 then modmul result base n else result) (modmul base base n) (exp / 2)

/-- modPow(a, e, n) as R90 computes it: the loop runs bitlen(e) times. -/
def modPow (a e n : Nat) : Nat := if n = 1 then 0 else modPowLoop n (bitlen e) 1 (a % n) e

/-- MODEXP (R91). -/
def execModexp (s : State) : Result :=
  if s.N = 0 then .next (raise .modulusRejected s)
  else .next (complete { s with R := modPow s.A s.E s.N })

end Sys2Proof.Machine
end

