-- ==== Sys2Proof/Machine/Random.lean ====
section
/-! DEFINITION. The random-number functions (R74, R76) and the commands RANDBITS (R78) and RANDRANGE (R79). -/

namespace Sys2Proof.Machine

/-- The first byte with its most significant bit forced to 1 (R74). -/
def forceTopBit : List Byte → List Byte
  | [] => []
  | v :: vs => (v ||| 0x80#8) :: vs

/-- randomBits(L) (R74): ceil(L/8) bytes, the top bit of the first forced, first byte most significant. -/
def randomBits (len : Nat) (ans : List RngAnswer) : Draw Nat :=
  (drawBytes (ceilDiv len 8) ans).andThen fun vs rest => .done (be2int (forceTopBit vs)) rest

/-- randomInRange(lo, hi) (R76): one draw of bitlen(range) bits, reduced modulo the range; it never retries (R77). -/
def randomInRange (lo hi : Nat) (ans : List RngAnswer) : Draw Nat :=
  (randomBits (bitlen (hi - lo + 1)) ans).andThen fun v rest => .done (lo + v % (hi - lo + 1)) rest

/-- RANDBITS (R78). -/
def execRandbits (s : State) : Result :=
  if s.BITLEN.toNat = 0 ∨ s.cfg.maxbits < s.BITLEN.toNat then .next (raise .badLength s)
  else settle (randomBits s.BITLEN.toNat s.drawn) (fun v => { s with R := v }) s

/-- RANDRANGE (R79). -/
def execRandrange (s : State) : Result :=
  if s.B < s.A then .next (raise .badRange s)
  else settle (randomInRange s.A s.B s.drawn) (fun v => { s with R := v }) s

end Sys2Proof.Machine
end

