-- ==== Sys2Proof/Machine/Millerrabin.lean ====
section
/-! DEFINITION. The Miller-Rabin controller (R95 to R99) and the command MRTEST (R100). -/

namespace Sys2Proof.Machine

/-- The verdict of the test (R95). -/
inductive Verdict where
  | composite
  | probablyPrime
deriving DecidableEq, Repr

/-- Halve d while it is even, counting in r (R97, R99); the fuel bounds the number of halvings. -/
def halveWhileEven : Nat → Nat → Nat → Nat × Nat
  | 0, r, d => (r, d)
  | fuel + 1, r, d => if d % 2 = 0 then halveWhileEven fuel (r + 1) (d / 2) else (r, d)

/-- (r, d) with m = 2^r * d and d odd (R97), for m >= 1. -/
def decompose (m : Nat) : Nat × Nat := halveWhileEven (bitlen m) 0 m

/-- At most j squarings of x: the round passes when n - 1 is met, and fails when 1 is met first or none meets it (R98). -/
def squareUntil (n : Nat) : Nat → Nat → Bool
  | 0, _ => false
  | j + 1, x =>
    let y := modmul x x n
    if y = n - 1 then true else if y = 1 then false else squareUntil n j y

/-- One round with witness a passes (R98). -/
def roundPasses (n r d a : Nat) : Bool :=
  let x := modPow a d n
  if x = 1 ∨ x = n - 1 then true else squareUntil n (r - 1) x

/-- k more rounds after `passed` have passed (R99): a failing round ends the test with verdict composite. -/
def rounds (n r d : Nat) : Nat → Nat → List RngAnswer → Draw (Verdict × Nat)
  | 0, passed, ans => .done (.probablyPrime, passed) ans
  | k + 1, passed, ans =>
    (randomInRange 2 (n - 2) ans).andThen fun a rest =>
      if roundPasses n r d a then rounds n r d k (passed + 1) rest
      else .done (.composite, passed) rest

/-- The whole test (R99), with the pre-checks of R96. -/
def millerRabin (n k : Nat) (ans : List RngAnswer) : Draw (Verdict × Nat) :=
  if n ≤ 1 then .done (.composite, 0) ans
  else if n = 2 ∨ n = 3 then .done (.probablyPrime, 0) ans
  else if n % 2 = 0 then .done (.composite, 0) ans
  else rounds n (decompose (n - 1)).1 (decompose (n - 1)).2 k 0 ans

/-- What a verdict writes: STATUS.PRIME and RNDCNT (R100). -/
def recordVerdict (v : Verdict × Nat) (s : State) : State :=
  { s with
    STATUS := { s.STATUS with PRIME := decide (v.1 = Verdict.probablyPrime) }
    RNDCNT := BitVec.ofNat 32 v.2 }

/-- MRTEST (R100). -/
def execMrtest (s : State) : Result :=
  settle (millerRabin s.N s.K.toNat s.drawn) (fun v => recordVerdict v s) s

end Sys2Proof.Machine
end

