-- ==== Sys2Proof/Machine/Modmul.lean ====
section
/-! DEFINITION. The Montgomery product (R82) and the commands MONTMUL (R83) and MODMUL (R84). -/

namespace Sys2Proof.Machine

/-- RMI for odd n, the inverse of RM = 2^MAXBITS modulo n (R82): (n+1)/2 is the inverse of 2, so its MAXBITS-th power is
the inverse of RM (DEDUCED, log 10; that it is the value R82 defines is a statement of its own). -/
def radixInverse (maxbits n : Nat) : Nat := modPow ((n + 1) / 2) maxbits n

/-- montpro(a, b, n) = (a * b * RMI) mod n, fully reduced (R82). -/
def montpro (maxbits a b n : Nat) : Nat := a * b * radixInverse maxbits n % n

/-- MONTMUL (R83). -/
def execMontmul (s : State) : Result :=
  if s.N = 0 then .next (raise .modulusRejected s)
  else if s.N % 2 = 0 then .next (raise .evenModulus s)
  else .next (complete { s with R := montpro s.cfg.maxbits s.A s.B s.N })

/-- MODMUL (R84). -/
def execModmul (s : State) : Result :=
  if s.N = 0 then .next (raise .modulusRejected s)
  else .next (complete { s with R := modmul s.A s.B s.N })

end Sys2Proof.Machine
end

