-- ==== Sys2Proof/Machine/Flags.lean ====
section
/-! DEFINITION. The word views of STATUS, RC and IEN, the write-1-to-clear rule (R22), the result codes as numbers (R126)
and the interrupt line (R132). -/

namespace Sys2Proof.Machine

/-- One flag as a one-bit vector. -/
def bit (x : Bool) : BitVec 1 := BitVec.ofBool x

/-- STATUS as the host reads it: BUSY in bit 0 up to WRBUSY in bit 5, bits 31:6 zero (R22, R32). -/
def Status.word (f : Status) : Word :=
  0#26 ++ bit f.WRBUSY ++ bit f.PADFB ++ bit f.PRIME ++ bit f.ERR ++ bit f.DONE ++ bit f.BUSY

/-- A host write to STATUS: DONE, ERR and WRBUSY are cleared where a 1 is written, nothing else changes (R22). -/
def Status.writeOneToClear (f : Status) (v : Word) : Status :=
  { f with DONE := f.DONE && !v.getLsbD 1, ERR := f.ERR && !v.getLsbD 2, WRBUSY := f.WRBUSY && !v.getLsbD 5 }

/-- IEN as the host reads it: IE_DONE in bit 0, IE_ERR in bit 1, bits 31:2 zero (R24, R32). -/
def Enables.word (e : Enables) : Word := 0#30 ++ bit e.IE_ERR ++ bit e.IE_DONE

/-- A host write to IEN keeps bits 0 and 1 and ignores the reserved ones (R24, R32). -/
def Enables.ofWord (v : Word) : Enables := { IE_DONE := v.getLsbD 0, IE_ERR := v.getLsbD 1 }

/-- The number of a result code (R126). -/
def ResultCode.number : ResultCode → BitVec 8
  | .ok => 0x00#8
  | .secureRandomUnavailable => 0x01#8
  | .dataTooLong => 0x02#8
  | .invalidPadding => 0x03#8
  | .modulusRejected => 0x04#8
  | .evenModulus => 0x05#8
  | .badLength => 0x06#8
  | .badRange => 0x07#8
  | .valueTooLarge => 0x08#8
  | .badCommand => 0x09#8

/-- RC as the host reads it: the code in bits 7:0, bits 31:8 zero (R23). -/
def ResultCode.word (c : ResultCode) : Word := 0#24 ++ c.number

/-- The codes R126 marks fatal. -/
def ResultCode.fatal : ResultCode → Bool
  | .ok => false
  | .secureRandomUnavailable => true
  | .dataTooLong => true
  | .invalidPadding => false
  | .modulusRejected => true
  | .evenModulus => true
  | .badLength => true
  | .badRange => true
  | .valueTooLarge => true
  | .badCommand => true

/-- The interrupt line (R132). -/
def State.IRQ (s : State) : Bool := (s.IEN.IE_DONE && s.STATUS.DONE) || (s.IEN.IE_ERR && s.STATUS.ERR)

/-- FBCNT after one more fallback: it saturates at 2^32 - 1 (R29). -/
def saturatingSucc (c : Word) : Word := BitVec.ofNat 32 (min (c.toNat + 1) (2 ^ 32 - 1))

end Sys2Proof.Machine
end

