-- ==== Sys2Proof/Machine/Padding.lean ====
section
/-! DEFINITION. The padding functions (R107, R108, R110) and the commands PAD (R109), UNPAD (R111), BLK2INT (R115) and
INT2BLK (R116). -/

namespace Sys2Proof.Machine

/-- The first n non-zero bytes of the answers, in order; a zero answer is drawn again for the same position (R108). -/
def drawNonZero : Nat → List RngAnswer → Draw (List Byte)
  | 0, ans => .done [] ans
  | _ + 1, [] => .wait
  | _ + 1, .unavailable :: _ => .unavailable
  | n + 1, .ok v :: ans =>
    if v = 0#8 then drawNonZero (n + 1) ans
    else (drawNonZero n ans).andThen fun vs rest => .done (v :: vs) rest
termination_by structural _ ans => ans

/-- The padded block: 00 02, the padding string, the separator 00, the chunk (R107). -/
def paddedBlock (ps chunk : List Byte) : List Byte := 0x00#8 :: 0x02#8 :: (ps ++ 0x00#8 :: chunk)

/-- The bytes after the first 00, if there is one (R110). -/
def afterSeparator : List Byte → Option (List Byte)
  | [] => none
  | v :: vs => if v = 0x00#8 then some vs else afterSeparator vs

/-- unpad(b) (R110): none is InvalidPadding. -/
def unpad : List Byte → Option (List Byte)
  | x :: y :: rest => if x = 0x00#8 ∧ y = 0x02#8 then afterSeparator rest else none
  | _ => none

/-- BLKSIZE exceeds NB: the four commands of this file fail with BadLength (R106). -/
def blockTooLarge (s : State) : Bool := decide (s.cfg.nb < s.BLKSIZE.toNat)

/-- BLK[0 .. BLKSIZE-1], the block (R105). -/
def blockBytes (s : State) : List Byte := Memory.readBytes s.BLK 0 s.BLKSIZE.toNat

/-- DATA[0 .. DLEN-1], the chunk (R105). -/
def chunkBytes (s : State) : List Byte := Memory.readBytes s.DATA 0 s.DLEN.toNat

/-- PAD (R109). -/
def execPad (s : State) : Result :=
  if blockTooLarge s then .next (raise .badLength s)
  else if s.BLKSIZE.toNat < s.DLEN.toNat + 11 then .next (raise .dataTooLong s)
  else settle (drawNonZero (s.BLKSIZE.toNat - s.DLEN.toNat - 3) s.drawn)
    (fun ps => { s with BLK := Memory.writeBytes s.BLK 0 (paddedBlock ps (chunkBytes s)) }) s

/-- The fallback of UNPAD (R112): the raw block is delivered and the outcome is tagged. -/
def deliverRaw (s : State) : State :=
  { s with
    DATA := Memory.writeBytes s.DATA 0 (blockBytes s)
    DLEN := s.BLKSIZE
    STATUS := { s.STATUS with PADFB := true }
    FBCNT := saturatingSucc s.FBCNT }

/-- UNPAD (R111). -/
def execUnpad (s : State) : Result :=
  if blockTooLarge s then .next (raise .badLength s)
  else
    match unpad (blockBytes s) with
    | none => .next (finish .invalidPadding (deliverRaw s))
    | some chunk =>
      .next (complete { s with DATA := Memory.writeBytes s.DATA 0 chunk, DLEN := BitVec.ofNat 32 chunk.length })

/-- BLK2INT (R115). -/
def execBlk2int (s : State) : Result :=
  if blockTooLarge s then .next (raise .badLength s)
  else .next (complete { s with A := be2int (blockBytes s) })

/-- INT2BLK (R116). -/
def execInt2blk (s : State) : Result :=
  if blockTooLarge s then .next (raise .badLength s)
  else if 256 ^ s.BLKSIZE.toNat ≤ s.R then .next (raise .valueTooLarge s)
  else .next (complete { s with BLK := Memory.writeBytes s.BLK 0 (int2be s.R s.BLKSIZE.toNat) })

end Sys2Proof.Machine
end

