-- ==== Sys2Proof/Machine/System.lean ====
section
/-! DEFINITION. The system commands NOP (R117) and CLR (R118), and the completion of an illegal word (R62). -/

namespace Sys2Proof.Machine

/-- NOP (R117). -/
def execNop (s : State) : Result := .next (complete s)

/-- CLR (R118): all operand registers, both buffers and DLEN to 0. -/
def execClr (s : State) : Result :=
  .next (complete { s with A := 0, B := 0, E := 0, N := 0, R := 0, BLK := [], DATA := [], DLEN := 0#32 })

/-- An illegal word completes with BadCommand (R62). -/
def execIllegal (s : State) : Result := .next (raise .badCommand s)

end Sys2Proof.Machine
end

