-- ==== Sys2Proof/Machine/Dispatch.lean ====
section
/-! DEFINITION. The meaning of each command, one arm per constructor. exec is the block's step on the running command:
it completes the command (R121, R128), or, where the answers received do not suffice, issues the next RngByte request. -/

namespace Sys2Proof.Machine

def exec (i : Instr) (s : State) : Host.Outcome State Fault Refusal :=
  match i with
  | .nop => Sys2Proof.Machine.execNop s
  | .montmul => Sys2Proof.Machine.execMontmul s
  | .modmul => Sys2Proof.Machine.execModmul s
  | .modexp => Sys2Proof.Machine.execModexp s
  | .mrtest => Sys2Proof.Machine.execMrtest s
  | .pad => Sys2Proof.Machine.execPad s
  | .unpad => Sys2Proof.Machine.execUnpad s
  | .randbits => Sys2Proof.Machine.execRandbits s
  | .randrange => Sys2Proof.Machine.execRandrange s
  | .blk2int => Sys2Proof.Machine.execBlk2int s
  | .int2blk => Sys2Proof.Machine.execInt2blk s
  | .clr => Sys2Proof.Machine.execClr s

end Sys2Proof.Machine
end

