-- ==== Sys2Proof/Machine/Operands.lean ====
section
/-! DEFINITION. The address map (R42) and the 32-bit views of operand registers (R43) and buffers (R45). -/

namespace Sys2Proof.Machine

/-- The eleven control and status registers (R20). -/
inductive Csr where
  | cmd | status | rc | ien | k | bitlen | blksize | dlen | fbcnt | cap | rndcnt
deriving DecidableEq, Repr

/-- The five operand registers (R14). -/
inductive Operand where
  | a | b | e | n | r
deriving DecidableEq, Repr

/-- The two byte buffers (R17, R18). -/
inductive Buffer where
  | blk | data
deriving DecidableEq, Repr

/-- What stands at a word offset of the register space (R42). -/
inductive Loc where
  | csr (c : Csr)
  | operand (x : Operand) (j : Nat)
  | buffer (x : Buffer) (j : Nat)
  | unmapped
deriving DecidableEq, Repr

/-- The control and status register of word index i, offset 4*i (R20). -/
def csrAt : Nat → Loc
  | 0 => .csr .cmd
  | 1 => .csr .status
  | 2 => .csr .rc
  | 3 => .csr .ien
  | 4 => .csr .k
  | 5 => .csr .bitlen
  | 6 => .csr .blksize
  | 7 => .csr .dlen
  | 8 => .csr .fbcnt
  | 9 => .csr .cap
  | 10 => .csr .rndcnt
  | _ => .unmapped

/-- Word j of the window that begins at 0x200 * win (R42). -/
def windowAt (j : Nat) : Nat → Loc
  | 1 => .operand .a j
  | 2 => .operand .b j
  | 3 => .operand .e j
  | 4 => .operand .n j
  | 5 => .operand .r j
  | 6 => .buffer .blk j
  | 7 => .buffer .data j
  | _ => .unmapped

/-- The address map (R42): registers below 0x02C, seven windows of 0x200 bytes of which the first NW words are
implemented, and nothing elsewhere (R46). -/
def locate (c : Config) (addr : Nat) : Loc :=
  if addr < 0x200 then csrAt (addr / 4)
  else if addr % 0x200 / 4 < c.nw then windowAt (addr % 0x200 / 4) (addr / 0x200)
  else .unmapped

/-- The value of an operand register. -/
def State.operand (s : State) : Operand → Nat
  | .a => s.A
  | .b => s.B
  | .e => s.E
  | .n => s.N
  | .r => s.R

/-- Write an operand register. -/
def State.setOperand (s : State) (v : Nat) : Operand → State
  | .a => { s with A := v }
  | .b => { s with B := v }
  | .e => { s with E := v }
  | .n => { s with N := v }
  | .r => { s with R := v }

/-- The bytes of a buffer. -/
def State.buffer (s : State) : Buffer → Memory
  | .blk => s.BLK
  | .data => s.DATA

/-- Replace a buffer. -/
def State.setBuffer (s : State) (m : Memory) : Buffer → State
  | .blk => { s with BLK := m }
  | .data => { s with DATA := m }

/-- X[32*j+31 : 32*j], the word j of an operand window (R11, R43). -/
def operandWord (x j : Nat) : Word := BitVec.ofNat 32 (x / 2 ^ (32 * j))

/-- x with the 32 bits of word j replaced by v and every other bit unchanged (R43). -/
def setOperandWord (x j : Nat) (v : Word) : Nat :=
  x % 2 ^ (32 * j) + v.toNat * 2 ^ (32 * j) + x / 2 ^ (32 * j + 32) * 2 ^ (32 * j + 32)

/-- Word j of a buffer window: the byte with the lower index in the less significant lane (R45). -/
def bufferWord (m : Memory) (j : Nat) : Word :=
  Memory.read m (4 * j + 3) ++ Memory.read m (4 * j + 2) ++ Memory.read m (4 * j + 1) ++ Memory.read m (4 * j)

/-- The four bytes of a word, least significant lane first (R45). -/
def wordBytes (v : Word) : List Byte :=
  [v.extractLsb' 0 8, v.extractLsb' 8 8, v.extractLsb' 16 8, v.extractLsb' 24 8]

/-- Replace the four bytes of word j of a buffer window (R45). -/
def setBufferWord (m : Memory) (j : Nat) (v : Word) : Memory := Memory.writeBytes m (4 * j) (wordBytes v)

end Sys2Proof.Machine
end

