-- ==== Sys2Proof/Machine/HostAccess.lean ====
section
/-! DEFINITION. HostRead and HostWrite (R44 to R47, R51): the whole access rules of the register space. -/

namespace Sys2Proof.Machine

/-- The exact value of a register or window word (R20, R43, R45); an unmapped offset reads 0 (R46). -/
def State.readLoc (s : State) : Loc → Word
  | .csr .cmd => s.CMD
  | .csr .status => s.STATUS.word
  | .csr .rc => s.RC.word
  | .csr .ien => s.IEN.word
  | .csr .k => s.K
  | .csr .bitlen => s.BITLEN
  | .csr .blksize => s.BLKSIZE
  | .csr .dlen => s.DLEN
  | .csr .fbcnt => s.FBCNT
  | .csr .cap => BitVec.ofNat 32 s.cfg.maxbits
  | .csr .rndcnt => s.RNDCNT
  | .operand x j => operandWord (s.operand x) j
  | .buffer x j => bufferWord (s.buffer x) j
  | .unmapped => 0#32

/-- The places whose value is unspecified while a command runs (R51 (c)). An unmapped offset reads 0 always (log 7). -/
def Loc.openWhileBusy : Loc → Bool
  | .csr .dlen => true
  | .csr .rndcnt => true
  | .csr _ => false
  | .operand _ _ => true
  | .buffer _ _ => true
  | .unmapped => false

/-- A write while the block is idle (R20, R22, R43, R45, R46): CMD starts a command (R119), STATUS clears the W1C bits
written as 1, the read-only registers and unmapped offsets ignore it (R47). -/
def State.writeLoc (s : State) (v : Word) : Loc → State
  | .csr .cmd => startCommand v s
  | .csr .status => { s with STATUS := s.STATUS.writeOneToClear v }
  | .csr .rc => s
  | .csr .ien => { s with IEN := Enables.ofWord v }
  | .csr .k => { s with K := v }
  | .csr .bitlen => { s with BITLEN := v }
  | .csr .blksize => { s with BLKSIZE := v }
  | .csr .dlen => { s with DLEN := v }
  | .csr .fbcnt => { s with FBCNT := v }
  | .csr .cap => s
  | .csr .rndcnt => s
  | .operand x j => s.setOperand (setOperandWord (s.operand x) j v) x
  | .buffer x j => s.setBuffer (setBufferWord (s.buffer x) j v) x
  | .unmapped => s

/-- The refusal of an access that is no operation of the interface, if it is none (R44). -/
def accessRefusal (addr n : Nat) : Option Refusal :=
  if n ≠ 4 then some (.accessWidth n)
  else if addr % 4 ≠ 0 then some (.misalignedAccess addr)
  else if 0x1000 ≤ addr then some (.accessOutside addr)
  else none

/-- The read of a mapped or unmapped place: exact, or a fresh free value where R51 (c) leaves it open. Nothing of the
block changes (R47). -/
def readAt (l : Loc) (s : State) : State :=
  if s.STATUS.BUSY && l.openWhileBusy then
    { s with readData := some (Config.freeWord s.freeCount), freeCount := s.freeCount + 1 }
  else { s with readData := some (s.readLoc l) }

/-- A write: while a command runs it is discarded and sets WRBUSY (R51 (a)); while the reset input is asserted all state
keeps its reset value (R141; log 8); otherwise it takes effect. -/
def writeAt (l : Loc) (v : Word) (s : State) : State :=
  if s.rst then s
  else if s.STATUS.BUSY then { s with STATUS := { s.STATUS with WRBUSY := true } }
  else s.writeLoc v l

/-- HostRead (R44, R46, R47, R51). -/
def hostRead (addr n : Nat) (s : State) : Result :=
  match accessRefusal addr n with
  | some r => .refused r
  | none => .next (readAt (locate s.cfg addr) s)

/-- HostWrite (R44, R46, R47, R51, R119). -/
def hostWrite (addr n : Nat) (v : Word) (s : State) : Result :=
  match accessRefusal addr n with
  | some r => .refused r
  | none => .next (writeAt (locate s.cfg addr) v s)

end Sys2Proof.Machine
end

