-- ==== Sys2Proof/Machine/Turns.lean ====
section
/-! DEFINITION. The moves of the agents (R13): the block's own move on the latched command, and what each turn does. -/

namespace Sys2Proof.Machine

/-- The block's own move (R19, R62, R120): a running command is fetched from the latched word in CMD, decoded and
executed; an illegal word completes with BadCommand; an idle block does nothing (R121). -/
def blockStep (s : State) : Result :=
  if running s then
    match decode (fetchWord s) with
    | .command i => exec i s
    | .illegal _ => execIllegal s
  else .next s

/-- The move of one agent (R13). -/
def takeTurn (t : Turn) (s : State) : Result :=
  match t with
  | .hostRead addr n => hostRead addr n s
  | .hostWrite addr n v => hostWrite addr n v s
  | .rngAnswer a => .next (acceptAnswer a s)
  | .rngStale _ => .next s
  | .rst level => .next (driveReset level s)
  | .block => blockStep s

end Sys2Proof.Machine
end

