-- ==== Sys2Proof/Machine/Step.lean ====
section
/-! DEFINITION. One step: the next agent of `turns` moves; with nobody named the block moves. -/

namespace Sys2Proof.Machine

/-- One step of the machine: the oldest turn is taken; with none left the block moves (R153: a command whose pseudocode
terminates does complete). -/
def step (s : State) : Host.Outcome State Fault Refusal :=
  match s.turns with
  | [] => blockStep s
  | t :: rest => takeTurn t { s with turns := rest }

/-- The state whose very next step runs the table word w (log 2). -/
def State.withFetchWord (s : State) (nbits w : Nat) : State := placeCommand (wordOfTable nbits w) s

end Sys2Proof.Machine
end

