-- ==== Sys2Proof/Safety.lean ====
section
/-! DEFINITION. What holds of every state the block can be in (the invariant), and the spec's own formulas that claims
about the model are stated with: the value of a random draw (R74), a strong-probable-prime round (R98), the window bases
(R42) and the offsets without a register (R46). None of them is used by the machine. -/

namespace Sys2Proof.Machine

/-- What every state the block reaches satisfies, from the prose of the spec. -/
structure State.Inv (s : State) : Prop where
  /-- MAXBITS is a legal width (R8). -/
  width : s.cfg.legal = true
  /-- Every operand register holds a number below 2^MAXBITS (R14, R88). -/
  operands : ∀ x : Operand, s.operand x < 2 ^ s.cfg.maxbits
  /-- The buffers are in canonical form and hold nothing at or beyond NB (R17, R18). -/
  buffers : ∀ x : Buffer, (s.buffer x).wf = true ∧ Memory.below s.cfg.nb (s.buffer x) = true
  /-- BUSY = 1 implies DONE = ERR = PRIME = PADFB = 0 (R22), and RC is 0 since command start (R23). -/
  busyFlags : s.STATUS.BUSY = true →
    s.STATUS.DONE = false ∧ s.STATUS.ERR = false ∧ s.STATUS.PRIME = false ∧ s.STATUS.PADFB = false ∧ s.RC = .ok
  /-- While no command runs there is no hidden state and no request is outstanding (R34, R55). -/
  idleHidden : s.STATUS.BUSY = false → s.drawn = [] ∧ s.rngReq = false
  /-- PADFB tags exactly the completion with code InvalidPadding (R22, R112, R129). -/
  fallbackTag : s.STATUS.PADFB = true ↔ s.RC = .invalidPadding
  /-- ERR stands only beside a fatal code (R22, R125). -/
  errFatal : s.STATUS.ERR = true → s.RC.fatal = true
  /-- PRIME stands only after a success (R22). -/
  primeOk : s.STATUS.PRIME = true → s.RC = .ok
  /-- While the reset input is asserted all state has its reset value (R141). -/
  heldInReset : s.rst = true → resetBlock s = s

/-- The value of randomBits on the bytes answered (R74): the top bit of the first byte forced, the first byte most
significant, written as the sum of R11. -/
def drawnValue (bytes : List Byte) : Nat :=
  ∑ i ∈ Finset.range bytes.length,
    (if i = 0 then bytes.getD i 0#8 ||| 0x80#8 else bytes.getD i 0#8).toNat * 256 ^ (bytes.length - 1 - i)

/-- L is the bit length of x, in the words of R10. -/
def IsBitLength (x len : Nat) : Prop := (x = 0 ∧ len = 0) ∨ (2 ^ (len - 1) ≤ x ∧ x < 2 ^ len ∧ 0 < len)

/-- The witness of round i (counted from 0) of MRTEST on n, when each round draws nb bytes (R98, R101). -/
def witness (n nb i : Nat) (bytes : List Byte) : Nat := 2 + drawnValue ((bytes.drop (nb * i)).take nb) % (n - 3)

/-- A round with witness a passes for n (R97, R98): with n - 1 = 2^r * d and d odd, x = a^d mod n is 1 or n - 1, or one of
the at most r - 1 squarings of x is n - 1 before any is 1. -/
def RoundPasses (n a : Nat) : Prop :=
  ∃ r d, n - 1 = 2 ^ r * d ∧ d % 2 = 1 ∧
    (a ^ d % n = 1 ∨ a ^ d % n = n - 1 ∨
      ∃ j, 1 ≤ j ∧ j ≤ r - 1 ∧ a ^ (2 ^ j * d) % n = n - 1 ∧ ∀ k, 1 ≤ k → k < j → a ^ (2 ^ k * d) % n ≠ 1)

/-- The offset of an operand window (R42). -/
def Operand.base : Operand → Nat
  | .a => 0x200
  | .b => 0x400
  | .e => 0x600
  | .n => 0x800
  | .r => 0xA00

/-- The offset of a buffer window (R42). -/
def Buffer.base : Buffer → Nat
  | .blk => 0xC00
  | .data => 0xE00

/-- The offsets of the register space with nothing behind them (R46): 0x02C..0x1FF, and in each window the words with
index >= NW. -/
def UnmappedOffset (c : Config) (addr : Nat) : Prop :=
  (0x02C ≤ addr ∧ addr < 0x200) ∨ (0x200 ≤ addr ∧ addr < 0x1000 ∧ c.nw ≤ addr % 0x200 / 4)

end Sys2Proof.Machine
end

