-- ==== Sys2Proof/Certificates/Slice0/Obligations.lean ====
section
/-! DEFINITION. The statements about the model, for the provers. A next state is written out as a record over the state
before, so that each statement says the result and the frame at once: every field not named keeps its value. -/

open Sys2Proof Sys2Proof.Machine

/-! ### Encoding and fetch -/

/-- Each 32-bit word has one meaning: it decodes to a command exactly when it is that command's word (R60, R62). -/
def Obligations.WordDecodesOnlyToItsCommand : Prop :=
  ∀ (w : Word) (i : Instr), decode w = .command i ↔ w = encode i

/-- The words of R60's table, written out, decode to their commands, and two illegal words of R62 are rejected. -/
def Obligations.TableWordsDecode : Prop :=
  decode 0x00000000#32 = .command .nop ∧ decode 0x00000001#32 = .command .montmul ∧
  decode 0x00000002#32 = .command .modmul ∧ decode 0x00000003#32 = .command .modexp ∧
  decode 0x00000004#32 = .command .mrtest ∧ decode 0x00000005#32 = .command .pad ∧
  decode 0x00000006#32 = .command .unpad ∧ decode 0x00000007#32 = .command .randbits ∧
  decode 0x00000008#32 = .command .randrange ∧ decode 0x00000009#32 = .command .blk2int ∧
  decode 0x0000000A#32 = .command .int2blk ∧ decode 0x0000000B#32 = .command .clr ∧
  decode 0x0000000C#32 = .illegal (.reservedOpcode 0x0C#8) ∧
  decode 0x00000103#32 = .illegal (.reservedBits 0x000001#24)

/-- R62: every word is one of the twelve words of R60 or illegal; a word with a reserved opcode or non-zero reserved bits,
written to CMD while idle, is stored, starts, and completes with BadCommand; no operand register, buffer or scalar register
changes. -/
def Obligations.IllegalWordCompletesWithBadCommand : Prop :=
  (∀ w : Word, (∃ i, w = encode i ∧ decode w = .command i) ∨
    ((0x0C ≤ w.toNat % 256 ∨ w.toNat / 256 ≠ 0) ∧ ∃ r, decode w = .illegal r)) ∧
  ∀ (s : State) (w : Word) (rest : List Turn),
    s.STATUS.BUSY = false → s.rst = false → (0x0C ≤ w.toNat % 256 ∨ w.toNat / 256 ≠ 0) →
    (∃ r, decode w = .illegal r) ∧
    ∃ t, step { s with turns := .hostWrite 0x000 4 w :: .block :: rest } = .next t ∧
      step t = .next { s with
        turns := rest, CMD := w, RC := .badCommand, drawn := [], rngReq := false,
        STATUS := { s.STATUS with BUSY := false, DONE := true, ERR := true, PRIME := false, PADFB := false } }

/-- A step runs the decoded command: with a command latched and the block to move, the step is exec of
that command at that state, the turn taken off. With no turn listed it is exec too, which is the model's choice (log 18: with
nobody named the block moves) and no rule of the spec. -/
def Obligations.StepRunsTheLatchedCommand : Prop :=
  ∀ (s : State) (i : Instr), s.STATUS.BUSY = true → s.rst = false → decode s.CMD = .command i →
    (s.turns = [] → step s = exec i s) ∧
    (∀ rest, s.turns = .block :: rest → step s = exec i { s with turns := rest })

/-- R119: a CMD write while idle latches the word, sets BUSY, clears DONE, ERR, PRIME, PADFB and RC and changes nothing
else, whatever DONE and ERR were; the command of that word then runs; a CMD write while BUSY is discarded and only
recorded in WRBUSY. -/
def Obligations.CmdWriteStartsTheCommand : Prop :=
  ∀ (s : State) (w : Word) (rest : List Turn), s.rst = false →
    (s.STATUS.BUSY = false → s.drawn = [] → s.rngReq = false →
      let t := { s with
        turns := rest, CMD := w, RC := .ok
        STATUS := { s.STATUS with BUSY := true, DONE := false, ERR := false, PRIME := false, PADFB := false } }
      step { s with turns := .hostWrite 0x000 4 w :: rest } = .next t ∧
      ∀ i, w = encode i → step { t with turns := .block :: rest } = exec i t) ∧
    (s.STATUS.BUSY = true →
      step { s with turns := .hostWrite 0x000 4 w :: rest } =
        .next { s with turns := rest, STATUS := { s.STATUS with WRBUSY := true } })

/-! ### What exec can answer at all -/

/-- R120, R121: exec never stops the machine; it either only issues the next RngByte request, with no result visible, or
completes the command, at one instant. The commands without RNG use always complete. -/
def Obligations.ExecCompletesOrRequestsAByte : Prop :=
  ∀ (i : Instr) (s : State), ∃ t, exec i s = .next t ∧
    (t = { s with rngReq := true } ∨
      (t.STATUS.BUSY = false ∧ t.STATUS.DONE = true ∧ t.drawn = [] ∧ t.rngReq = false)) ∧
    (i ≠ .mrtest → i ≠ .pad → i ≠ .randbits → i ≠ .randrange → t.STATUS.BUSY = false ∧ t.STATUS.DONE = true)

/-- R127: the codes each command can end with, and no other. -/
def Obligations.CommandsEndOnlyWithTheirCodes : Prop :=
  ∀ (i : Instr) (s t : State), exec i s = .next t → t ≠ { s with rngReq := true } →
    match i with
    | .nop => t.RC = .ok
    | .clr => t.RC = .ok
    | .montmul => t.RC = .ok ∨ t.RC = .modulusRejected ∨ t.RC = .evenModulus
    | .modmul => t.RC = .ok ∨ t.RC = .modulusRejected
    | .modexp => t.RC = .ok ∨ t.RC = .modulusRejected
    | .mrtest => t.RC = .ok ∨ t.RC = .secureRandomUnavailable
    | .pad => t.RC = .ok ∨ t.RC = .badLength ∨ t.RC = .dataTooLong ∨ t.RC = .secureRandomUnavailable
    | .unpad => t.RC = .ok ∨ t.RC = .badLength ∨ t.RC = .invalidPadding
    | .randbits => t.RC = .ok ∨ t.RC = .badLength ∨ t.RC = .secureRandomUnavailable
    | .randrange => t.RC = .ok ∨ t.RC = .badRange ∨ t.RC = .secureRandomUnavailable
    | .blk2int => t.RC = .ok ∨ t.RC = .badLength
    | .int2blk => t.RC = .ok ∨ t.RC = .badLength ∨ t.RC = .valueTooLarge

/-- R136, R128: errors are precise. A command that ends with a fatal code sets ERR and leaves every operand register,
every buffer byte and every scalar register other than CMD, STATUS and RC as it was, FBCNT and RNDCNT too. -/
def Obligations.FatalErrorsArePrecise : Prop :=
  ∀ (i : Instr) (s t : State), exec i s = .next t → t ≠ { s with rngReq := true } → t.RC.fatal = true →
    t = { s with
      RC := t.RC, drawn := [], rngReq := false
      STATUS := { s.STATUS with BUSY := false, DONE := true, ERR := true } }

/-- R16, the column "writes on success": a register not listed for a command keeps its value. -/
def Obligations.CommandsWriteOnlyWhatIsListed : Prop :=
  ∀ (i : Instr) (s t : State), exec i s = .next t →
    (t.cfg = s.cfg ∧ t.CMD = s.CMD ∧ t.IEN = s.IEN ∧ t.K = s.K ∧ t.BITLEN = s.BITLEN ∧ t.BLKSIZE = s.BLKSIZE ∧
      t.STATUS.WRBUSY = s.STATUS.WRBUSY ∧ t.rst = s.rst ∧ t.turns = s.turns ∧ t.readData = s.readData ∧
      t.freeCount = s.freeCount) ∧
    (i ≠ .clr → t.B = s.B ∧ t.E = s.E ∧ t.N = s.N) ∧
    (i ≠ .clr → i ≠ .blk2int → t.A = s.A) ∧
    (i ≠ .clr → i ≠ .montmul → i ≠ .modmul → i ≠ .modexp → i ≠ .randbits → i ≠ .randrange → t.R = s.R) ∧
    (i ≠ .clr → i ≠ .pad → i ≠ .int2blk → t.BLK = s.BLK) ∧
    (i ≠ .clr → ∀ a, s.BLKSIZE.toNat ≤ a → Memory.read t.BLK a = Memory.read s.BLK a) ∧
    (i ≠ .clr → i ≠ .unpad → t.DATA = s.DATA ∧ t.DLEN = s.DLEN) ∧
    (i ≠ .clr → t.RC.fatal = false → ∀ a, t.DLEN.toNat ≤ a → Memory.read t.DATA a = Memory.read s.DATA a) ∧
    (i ≠ .unpad → t.FBCNT = s.FBCNT ∧ t.STATUS.PADFB = s.STATUS.PADFB) ∧
    (i ≠ .mrtest → t.RNDCNT = s.RNDCNT ∧ t.STATUS.PRIME = s.STATUS.PRIME)

/-- R16, the column "reads": two states that agree on what a command reads (and on the RNG answers) see the same result
code and the same values written. UNPAD counts FBCNT up, so it reads it too, although R16 does not list it: its new value is
the same for two states that agree on the old one. Its PADFB is the same for two running states of the invariant, where the
start has cleared it. -/
def Obligations.CommandsReadOnlyWhatIsListed : Prop :=
  ∀ (s s' t t' : State), s.cfg = s'.cfg → s.drawn = s'.drawn →
    (s.A = s'.A → s.B = s'.B → s.N = s'.N → exec .montmul s = .next t → exec .montmul s' = .next t' →
      t.RC = t'.RC ∧ (t.RC = .ok → t.R = t'.R)) ∧
    (s.A = s'.A → s.B = s'.B → s.N = s'.N → exec .modmul s = .next t → exec .modmul s' = .next t' →
      t.RC = t'.RC ∧ (t.RC = .ok → t.R = t'.R)) ∧
    (s.A = s'.A → s.E = s'.E → s.N = s'.N → exec .modexp s = .next t → exec .modexp s' = .next t' →
      t.RC = t'.RC ∧ (t.RC = .ok → t.R = t'.R)) ∧
    (s.N = s'.N → s.K = s'.K → s.STATUS.BUSY = true → s'.STATUS.BUSY = true →
      exec .mrtest s = .next t → exec .mrtest s' = .next t' →
      t.STATUS.BUSY = t'.STATUS.BUSY ∧ (t.STATUS.BUSY = false → t.RC = t'.RC ∧
        (t.RC = .ok → t.STATUS.PRIME = t'.STATUS.PRIME ∧ t.RNDCNT = t'.RNDCNT))) ∧
    (s.BLKSIZE = s'.BLKSIZE → s.DLEN = s'.DLEN → s.STATUS.BUSY = true → s'.STATUS.BUSY = true →
      (∀ a, a < s.DLEN.toNat → Memory.read s.DATA a = Memory.read s'.DATA a) →
      exec .pad s = .next t → exec .pad s' = .next t' →
      t.STATUS.BUSY = t'.STATUS.BUSY ∧ (t.STATUS.BUSY = false → t.RC = t'.RC ∧
        (t.RC = .ok → ∀ a, a < s.BLKSIZE.toNat → Memory.read t.BLK a = Memory.read t'.BLK a))) ∧
    (s.BLKSIZE = s'.BLKSIZE → (∀ a, a < s.BLKSIZE.toNat → Memory.read s.BLK a = Memory.read s'.BLK a) →
      exec .unpad s = .next t → exec .unpad s' = .next t' →
      t.RC = t'.RC ∧ (t.RC ≠ .badLength → t.DLEN = t'.DLEN ∧
        ∀ a, a < t.DLEN.toNat → Memory.read t.DATA a = Memory.read t'.DATA a) ∧
      (s.Inv → s'.Inv → s.STATUS.BUSY = true → s'.STATUS.BUSY = true → t.STATUS.PADFB = t'.STATUS.PADFB) ∧
      (s.FBCNT = s'.FBCNT → t.FBCNT = t'.FBCNT)) ∧
    (s.BITLEN = s'.BITLEN → s.STATUS.BUSY = true → s'.STATUS.BUSY = true →
      exec .randbits s = .next t → exec .randbits s' = .next t' →
      t.STATUS.BUSY = t'.STATUS.BUSY ∧ (t.STATUS.BUSY = false → t.RC = t'.RC ∧ (t.RC = .ok → t.R = t'.R))) ∧
    (s.A = s'.A → s.B = s'.B → s.STATUS.BUSY = true → s'.STATUS.BUSY = true →
      exec .randrange s = .next t → exec .randrange s' = .next t' →
      t.STATUS.BUSY = t'.STATUS.BUSY ∧ (t.STATUS.BUSY = false → t.RC = t'.RC ∧ (t.RC = .ok → t.R = t'.R))) ∧
    (s.BLKSIZE = s'.BLKSIZE → (∀ a, a < s.BLKSIZE.toNat → Memory.read s.BLK a = Memory.read s'.BLK a) →
      exec .blk2int s = .next t → exec .blk2int s' = .next t' →
      t.RC = t'.RC ∧ (t.RC = .ok → t.A = t'.A)) ∧
    (s.BLKSIZE = s'.BLKSIZE → s.R = s'.R → exec .int2blk s = .next t → exec .int2blk s' = .next t' →
      t.RC = t'.RC ∧ (t.RC = .ok → ∀ a, a < s.BLKSIZE.toNat → Memory.read t.BLK a = Memory.read t'.BLK a))

/-! ### System commands -/

/-- R117: NOP completes and changes nothing but what start and completion change; run from an idle state it leaves DONE = 1,
RC = 0 and PRIME, PADFB and ERR clear. -/
def Obligations.NopOnlyCompletes : Prop :=
  ∀ (s : State), exec .nop s = .next { s with
      RC := .ok, drawn := [], rngReq := false, STATUS := { s.STATUS with BUSY := false, DONE := true } } ∧
    (s.STATUS.BUSY = false → s.rst = false → ∀ rest, ∃ t,
      step { s with turns := .hostWrite 0x000 4 0x00000000#32 :: .block :: rest } = .next t ∧
      step t = .next { s with
        turns := rest, CMD := 0#32, RC := .ok, drawn := [], rngReq := false
        STATUS := { s.STATUS with BUSY := false, DONE := true, ERR := false, PRIME := false, PADFB := false } })

/-- R118: CLR zeroes the operand registers, both buffers and DLEN; K, BITLEN, BLKSIZE, IEN, FBCNT, RNDCNT and WRBUSY are
unchanged. -/
def Obligations.ClrZeroesOperandsAndBuffers : Prop :=
  decode 0x0000000B#32 = .command .clr ∧ ∀ (s : State), ∃ m m', exec .clr s = .next { s with
      A := 0, B := 0, E := 0, N := 0, R := 0, BLK := m, DATA := m', DLEN := 0#32
      RC := .ok, drawn := [], rngReq := false, STATUS := { s.STATUS with BUSY := false, DONE := true } } ∧
    ∀ a, Memory.read m a = 0#8 ∧ Memory.read m' a = 0#8

/-! ### Arithmetic commands -/

/-- R84, R87: MODMUL. -/
def Obligations.ModmulResult : Prop :=
  decode 0x00000002#32 = .command .modmul ∧ ∀ (s : State),
    (s.N = 0 → exec .modmul s = .next { s with
      RC := .modulusRejected, drawn := [], rngReq := false
      STATUS := { s.STATUS with BUSY := false, DONE := true, ERR := true } }) ∧
    (s.N ≠ 0 → exec .modmul s = .next { s with
      R := s.A * s.B % s.N
      RC := .ok, drawn := [], rngReq := false, STATUS := { s.STATUS with BUSY := false, DONE := true } })

/-- R82: for odd n the inverse RMI of RM = 2^MAXBITS exists and is unique in 0..n-1, and the Montgomery product is
(a * b * RMI) mod n, below n, for all a and b. -/
def Obligations.MontgomeryProductIsTheRuleValue : Prop :=
  ∀ (maxbits n : Nat), n % 2 = 1 →
    ∃ rmi, rmi < n ∧ 2 ^ maxbits * rmi % n = 1 % n ∧
      (∀ x, x < n → 2 ^ maxbits * x % n = 1 % n → x = rmi) ∧
      ∀ a b, montpro maxbits a b n = a * b * rmi % n ∧ montpro maxbits a b n < n

/-- R83: MONTMUL, its two checks in order, and its result as the value R82 defines. -/
def Obligations.MontmulResult : Prop :=
  decode 0x00000001#32 = .command .montmul ∧ ∀ (s : State),
    (s.N = 0 → exec .montmul s = .next { s with
      RC := .modulusRejected, drawn := [], rngReq := false
      STATUS := { s.STATUS with BUSY := false, DONE := true, ERR := true } }) ∧
    (s.N ≠ 0 → s.N % 2 = 0 → exec .montmul s = .next { s with
      RC := .evenModulus, drawn := [], rngReq := false
      STATUS := { s.STATUS with BUSY := false, DONE := true, ERR := true } }) ∧
    (s.N % 2 = 1 → ∃ rmi, rmi < s.N ∧ 2 ^ s.cfg.maxbits * rmi % s.N = 1 % s.N ∧
      exec .montmul s = .next { s with
        R := s.A * s.B * rmi % s.N
        RC := .ok, drawn := [], rngReq := false, STATUS := { s.STATUS with BUSY := false, DONE := true } })

/-- R85: the identities between the Montgomery product and the plain one. -/
def Obligations.MontgomeryIdentities : Prop :=
  ∀ (maxbits a b n : Nat), n % 2 = 1 →
    montpro maxbits a b n * 2 ^ maxbits % n = a * b % n ∧
    montpro maxbits (montpro maxbits a b n) (2 ^ maxbits * 2 ^ maxbits % n) n = a * b % n ∧
    montpro maxbits (a * 2 ^ maxbits % n) (b * 2 ^ maxbits % n) n = a * b * 2 ^ maxbits % n ∧
    montpro maxbits (a * 2 ^ maxbits % n) 1 n = a % n

/-- R86: the reduction without division by n gives the Montgomery product whenever T = a * b < RM * n. -/
def Obligations.RedcGivesTheMontgomeryProduct : Prop :=
  ∀ (maxbits a b n np : Nat), n % 2 = 1 → np < 2 ^ maxbits → (n * np + 1) % 2 ^ maxbits = 0 →
    a * b < 2 ^ maxbits * n →
    let m := a * b % 2 ^ maxbits * np % 2 ^ maxbits
    let t := (a * b + m * n) / 2 ^ maxbits
    (a * b + m * n) % 2 ^ maxbits = 0 ∧ t < 2 * n ∧ montpro maxbits a b n = if n ≤ t then t - n else t

/-- R89: the square-and-multiply loop of R90 computes the power: 0 when n = 1, otherwise a^e mod n with a^0 = 1. -/
def Obligations.SquareAndMultiplyComputesThePower : Prop :=
  ∀ (a e n : Nat), 1 ≤ n → modPow a e n = if n = 1 then 0 else a ^ e % n

/-- R91, R92: MODEXP, with every corner case of R92 in the one formula. -/
def Obligations.ModexpResult : Prop :=
  decode 0x00000003#32 = .command .modexp ∧ ∀ (s : State),
    (s.N = 0 → exec .modexp s = .next { s with
      RC := .modulusRejected, drawn := [], rngReq := false
      STATUS := { s.STATUS with BUSY := false, DONE := true, ERR := true } }) ∧
    (s.N ≠ 0 → exec .modexp s = .next { s with
      R := if s.N = 1 then 0 else s.A ^ s.E % s.N
      RC := .ok, drawn := [], rngReq := false, STATUS := { s.STATUS with BUSY := false, DONE := true } })

/-- R94: with a matching key (n = p*q for distinct primes, e*d = 1 mod phi(n)) the MODEXP of the MODEXP gives the number
back, for every number below n. -/
def Obligations.ModexpDecryptsWhatItEncrypted : Prop :=
  ∀ (s t u : State) (p q d : Nat), p.Prime → q.Prime → p ≠ q → s.N = p * q →
    s.E * d % ((p - 1) * (q - 1)) = 1 % ((p - 1) * (q - 1)) → s.A < s.N →
    exec .modexp s = .next t → exec .modexp { t with A := t.R, E := d } = .next u → u.R = s.A

/-! ### Random numbers -/

/-- R78, R74, R73: RANDBITS. -/
def Obligations.RandbitsResult : Prop :=
  decode 0x00000007#32 = .command .randbits ∧ ∀ (s : State),
    (s.BITLEN.toNat = 0 ∨ s.cfg.maxbits < s.BITLEN.toNat → exec .randbits s = .next { s with
      RC := .badLength, drawn := [], rngReq := false
      STATUS := { s.STATUS with BUSY := false, DONE := true, ERR := true } }) ∧
    (0 < s.BITLEN.toNat → s.BITLEN.toNat ≤ s.cfg.maxbits → ∀ bytes : List Byte,
      (bytes.length = (s.BITLEN.toNat + 7) / 8 → s.drawn = bytes.map .ok → exec .randbits s = .next { s with
        R := drawnValue bytes
        RC := .ok, drawn := [], rngReq := false, STATUS := { s.STATUS with BUSY := false, DONE := true } }) ∧
      (bytes.length < (s.BITLEN.toNat + 7) / 8 → s.drawn = bytes.map .ok →
        exec .randbits s = .next { s with rngReq := true }) ∧
      (bytes.length < (s.BITLEN.toNat + 7) / 8 → s.drawn = bytes.map .ok ++ [.unavailable] →
        exec .randbits s = .next { s with
          RC := .secureRandomUnavailable, drawn := [], rngReq := false
          STATUS := { s.STATUS with BUSY := false, DONE := true, ERR := true } }))

/-- R75: the result v of randomBits(L) satisfies 2^(8*nb-1) <= v < 2^(8*nb) with nb = ceil(L/8); its bit length is
8*ceil(L/8), which is L only when 8 divides L. -/
def Obligations.RandomBitsBitLength : Prop :=
  ∀ (len v : Nat) (ans rest : List RngAnswer), 1 ≤ len → randomBits len ans = .done v rest →
    2 ^ (8 * ((len + 7) / 8) - 1) ≤ v ∧ v < 2 ^ (8 * ((len + 7) / 8)) ∧ bitlen v = 8 * ((len + 7) / 8) ∧
    (bitlen v = len ↔ len % 8 = 0)

/-- R79, R76: RANDRANGE; the range is exact and does not wrap, and A <= R <= B. -/
def Obligations.RandrangeResult : Prop :=
  decode 0x00000008#32 = .command .randrange ∧ ∀ (s : State),
    (s.B < s.A → exec .randrange s = .next { s with
      RC := .badRange, drawn := [], rngReq := false
      STATUS := { s.STATUS with BUSY := false, DONE := true, ERR := true } }) ∧
    (s.A ≤ s.B → ∀ len, IsBitLength (s.B - s.A + 1) len → ∀ bytes : List Byte,
      (bytes.length = (len + 7) / 8 → s.drawn = bytes.map .ok →
        s.A + drawnValue bytes % (s.B - s.A + 1) ≤ s.B ∧ exec .randrange s = .next { s with
          R := s.A + drawnValue bytes % (s.B - s.A + 1)
          RC := .ok, drawn := [], rngReq := false, STATUS := { s.STATUS with BUSY := false, DONE := true } }) ∧
      (bytes.length < (len + 7) / 8 → s.drawn = bytes.map .ok →
        exec .randrange s = .next { s with rngReq := true }) ∧
      (bytes.length < (len + 7) / 8 → s.drawn = bytes.map .ok ++ [.unavailable] →
        exec .randrange s = .next { s with
          RC := .secureRandomUnavailable, drawn := [], rngReq := false
          STATUS := { s.STATUS with BUSY := false, DONE := true, ERR := true } }))

/-- R55: no command asks for a byte it does not use: where the answers so far do not suffice and one more makes the
pseudocode end with a value, that answer was used. -/
def Obligations.NoRequestedByteIsUnused : Prop :=
  ∀ (ans : List RngAnswer) (x : RngAnswer),
    (∀ len v rest, randomBits len ans = .wait → randomBits len (ans ++ [x]) = .done v rest → rest = []) ∧
    (∀ lo hi v rest, randomInRange lo hi ans = .wait → randomInRange lo hi (ans ++ [x]) = .done v rest → rest = []) ∧
    (∀ n k v rest, millerRabin n k ans = .wait → millerRabin n k (ans ++ [x]) = .done v rest → rest = []) ∧
    (∀ n v rest, drawNonZero n ans = .wait → drawNonZero n (ans ++ [x]) = .done v rest → rest = [])

/-- R55, R72: an answer goes to the outstanding request, which it ends. That an answer with no request outstanding is
dropped is the model's choice (log 11), no rule of the spec. -/
def Obligations.AnswersGoToTheOutstandingRequest : Prop :=
  ∀ (s : State) (x : RngAnswer) (rest : List Turn),
    (s.rngReq = true → step { s with turns := .rngAnswer x :: rest } =
      .next { s with turns := rest, drawn := s.drawn ++ [x], rngReq := false }) ∧
    (s.rngReq = false → step { s with turns := .rngAnswer x :: rest } = .next { s with turns := rest })

/-! ### Miller-Rabin -/

/-- R100 with R96, R98, R99, R101, R73: MRTEST. The pre-checks draw no byte: N <= 1 and even N > 2 are composite, 2 and 3
are probably prime, none of them an error. An odd N >= 5 is tested round by round over the bytes answered: K rounds passed
is probably prime; the first failing round ends it with verdict composite and RNDCNT the rounds passed before; too few
answers is one more request; an unavailable answer is the fatal error. Each round draws ceil(bitlen(N-3)/8) bytes. -/
def Obligations.MrtestResult : Prop :=
  decode 0x00000004#32 = .command .mrtest ∧ ∀ (s : State),
    ((s.N ≤ 3 ∨ s.N % 2 = 0) → exec .mrtest s = .next { s with
      RNDCNT := 0#32, RC := .ok, drawn := [], rngReq := false
      STATUS := { s.STATUS with BUSY := false, DONE := true, PRIME := decide (s.N = 2 ∨ s.N = 3) } }) ∧
    ∀ (len nb : Nat) (bytes : List Byte), 5 ≤ s.N → s.N % 2 = 1 → IsBitLength (s.N - 3) len → nb = (len + 7) / 8 →
    (s.K.toNat * nb ≤ bytes.length → s.drawn = bytes.map .ok →
      (∀ j, j < s.K.toNat → RoundPasses s.N (witness s.N nb j bytes)) →
      exec .mrtest s = .next { s with
        RNDCNT := s.K, RC := .ok, drawn := [], rngReq := false
        STATUS := { s.STATUS with BUSY := false, DONE := true, PRIME := true } }) ∧
    (∀ p, p < s.K.toNat → (p + 1) * nb ≤ bytes.length → s.drawn = bytes.map .ok →
      (∀ j, j < p → RoundPasses s.N (witness s.N nb j bytes)) → ¬ RoundPasses s.N (witness s.N nb p bytes) →
      exec .mrtest s = .next { s with
        RNDCNT := BitVec.ofNat 32 p, RC := .ok, drawn := [], rngReq := false
        STATUS := { s.STATUS with BUSY := false, DONE := true, PRIME := false } }) ∧
    (∀ p, p < s.K.toNat → p * nb ≤ bytes.length → bytes.length < (p + 1) * nb →
      (∀ j, j < p → RoundPasses s.N (witness s.N nb j bytes)) →
      (s.drawn = bytes.map .ok → exec .mrtest s = .next { s with rngReq := true }) ∧
      (s.drawn = bytes.map .ok ++ [.unavailable] → exec .mrtest s = .next { s with
        RC := .secureRandomUnavailable, drawn := [], rngReq := false
        STATUS := { s.STATUS with BUSY := false, DONE := true, ERR := true } }))

/-- R102: a prime N is always reported probably prime, for every sequence of answers: an MRTEST of a prime only asks for
a byte, fails because a byte is unavailable, or reports PRIME = 1. -/
def Obligations.MrtestNeverRejectsAPrime : Prop :=
  ∀ (s t : State), s.N.Prime → exec .mrtest s = .next t →
    t = { s with rngReq := true } ∨ t.RC = .secureRandomUnavailable ∨
      (t.RC = .ok ∧ t.STATUS.PRIME = true ∧ t.RNDCNT = if s.N ≤ 3 then 0#32 else s.K)

/-- R103: the corner cases of MRTEST, with the bytes each requests. -/
def Obligations.MrtestCornerCases : Prop :=
  ∀ (s : State),
    let ends (prime : Bool) (passed : Word) := exec .mrtest s = .next { s with
      RNDCNT := passed, RC := .ok, drawn := [], rngReq := false
      STATUS := { s.STATUS with BUSY := false, DONE := true, PRIME := prime } }
    let asks := exec .mrtest s = .next { s with rngReq := true }
    (s.N = 0 ∨ s.N = 1 → ends false 0#32) ∧
    (s.N = 2 ∨ s.N = 3 → ends true 0#32) ∧
    (s.N % 2 = 0 → 4 ≤ s.N → ends false 0#32) ∧
    (s.N % 2 = 1 → 5 ≤ s.N → s.K = 0#32 → ends true 0#32) ∧
    (s.N = 5 ∨ s.N = 7 → ∀ bytes : List Byte, s.drawn = bytes.map .ok →
      (bytes.length = s.K.toNat → ends true s.K) ∧ (bytes.length < s.K.toNat → asks)) ∧
    (s.N = 9 → 1 ≤ s.K.toNat → (s.drawn = [] → asks) ∧ ∀ x, s.drawn = [.ok x] → ends false 0#32)

/-! ### Padding and conversions -/

/-- R107, R108, R109: PAD. -/
def Obligations.PadResult : Prop :=
  decode 0x00000005#32 = .command .pad ∧ ∀ (s : State),
    (s.cfg.nb < s.BLKSIZE.toNat → exec .pad s = .next { s with
      RC := .badLength, drawn := [], rngReq := false
      STATUS := { s.STATUS with BUSY := false, DONE := true, ERR := true } }) ∧
    (s.BLKSIZE.toNat ≤ s.cfg.nb → s.BLKSIZE.toNat < s.DLEN.toNat + 11 → exec .pad s = .next { s with
      RC := .dataTooLong, drawn := [], rngReq := false
      STATUS := { s.STATUS with BUSY := false, DONE := true, ERR := true } }) ∧
    (s.BLKSIZE.toNat ≤ s.cfg.nb → s.DLEN.toNat + 11 ≤ s.BLKSIZE.toNat → ∀ bytes : List Byte,
      let ps := bytes.filter (fun v => v != 0#8)
      let pslen := s.BLKSIZE.toNat - s.DLEN.toNat - 3
      (s.drawn = bytes.map .ok → pslen ≤ ps.length → ∃ m, exec .pad s = .next { s with
          BLK := m
          RC := .ok, drawn := [], rngReq := false, STATUS := { s.STATUS with BUSY := false, DONE := true } } ∧
        Memory.read m 0 = 0x00#8 ∧ Memory.read m 1 = 0x02#8 ∧
        (∀ j, j < pslen → Memory.read m (2 + j) = ps.getD j 0#8) ∧
        Memory.read m (pslen + 2) = 0x00#8 ∧
        (∀ j, j < s.DLEN.toNat → Memory.read m (pslen + 3 + j) = Memory.read s.DATA j) ∧
        (∀ a, s.BLKSIZE.toNat ≤ a → Memory.read m a = Memory.read s.BLK a)) ∧
      (ps.length < pslen →
        (s.drawn = bytes.map .ok → exec .pad s = .next { s with rngReq := true }) ∧
        (s.drawn = bytes.map .ok ++ [.unavailable] → exec .pad s = .next { s with
          RC := .secureRandomUnavailable, drawn := [], rngReq := false
          STATUS := { s.STATUS with BUSY := false, DONE := true, ERR := true } })))

/-- R110, R111, R112: UNPAD, with its fallback. -/
def Obligations.UnpadResult : Prop :=
  decode 0x00000006#32 = .command .unpad ∧ ∀ (s : State),
    let x := fun a => Memory.read s.BLK a
    let bs := s.BLKSIZE.toNat
    (s.cfg.nb < bs → exec .unpad s = .next { s with
      RC := .badLength, drawn := [], rngReq := false
      STATUS := { s.STATUS with BUSY := false, DONE := true, ERR := true } }) ∧
    (bs ≤ s.cfg.nb → (bs < 2 ∨ x 0 ≠ 0x00#8 ∨ x 1 ≠ 0x02#8 ∨ ∀ a, 2 ≤ a → a < bs → x a ≠ 0x00#8) →
      ∃ m, exec .unpad s = .next { s with
          DATA := m, DLEN := s.BLKSIZE, FBCNT := BitVec.ofNat 32 (min (s.FBCNT.toNat + 1) (2 ^ 32 - 1))
          RC := .invalidPadding, drawn := [], rngReq := false
          STATUS := { s.STATUS with BUSY := false, DONE := true, PADFB := true } } ∧
        ∀ a, Memory.read m a = if a < bs then x a else Memory.read s.DATA a) ∧
    (bs ≤ s.cfg.nb → x 0 = 0x00#8 → x 1 = 0x02#8 → ∀ sep, 2 ≤ sep → sep < bs → x sep = 0x00#8 →
      (∀ a, 2 ≤ a → a < sep → x a ≠ 0x00#8) →
      ∃ m, exec .unpad s = .next { s with
          DATA := m, DLEN := BitVec.ofNat 32 (bs - sep - 1)
          RC := .ok, drawn := [], rngReq := false, STATUS := { s.STATUS with BUSY := false, DONE := true } } ∧
        ∀ a, Memory.read m a = if a < bs - sep - 1 then x (sep + 1 + a) else Memory.read s.DATA a)

/-- R113: PAD followed by UNPAD ends with the same DLEN and the same chunk, RC = OK and PADFB = 0. -/
def Obligations.UnpadUndoesPad : Prop :=
  ∀ (s t : State), s.DLEN.toNat + 11 ≤ s.BLKSIZE.toNat → s.BLKSIZE.toNat ≤ s.cfg.nb →
    s.STATUS.BUSY = true → exec .pad s = .next t → t.STATUS.BUSY = false → t.RC = .ok →
    ∃ u, exec .unpad (startCommand 0x00000006#32 t) = .next u ∧ u.DLEN = s.DLEN ∧ u.RC = .ok ∧
      u.STATUS.PADFB = false ∧ ∀ a, a < s.DLEN.toNat → Memory.read u.DATA a = Memory.read s.DATA a

/-- R115: BLK2INT. -/
def Obligations.Blk2intResult : Prop :=
  decode 0x00000009#32 = .command .blk2int ∧ ∀ (s : State),
    (s.cfg.nb < s.BLKSIZE.toNat → exec .blk2int s = .next { s with
      RC := .badLength, drawn := [], rngReq := false
      STATUS := { s.STATUS with BUSY := false, DONE := true, ERR := true } }) ∧
    (s.BLKSIZE.toNat ≤ s.cfg.nb → exec .blk2int s = .next { s with
      A := ∑ j ∈ Finset.range s.BLKSIZE.toNat, (Memory.read s.BLK j).toNat * 256 ^ (s.BLKSIZE.toNat - 1 - j)
      RC := .ok, drawn := [], rngReq := false, STATUS := { s.STATUS with BUSY := false, DONE := true } })

/-- R116: INT2BLK. -/
def Obligations.Int2blkResult : Prop :=
  decode 0x0000000A#32 = .command .int2blk ∧ ∀ (s : State),
    (s.cfg.nb < s.BLKSIZE.toNat → exec .int2blk s = .next { s with
      RC := .badLength, drawn := [], rngReq := false
      STATUS := { s.STATUS with BUSY := false, DONE := true, ERR := true } }) ∧
    (s.BLKSIZE.toNat ≤ s.cfg.nb → 256 ^ s.BLKSIZE.toNat ≤ s.R → exec .int2blk s = .next { s with
      RC := .valueTooLarge, drawn := [], rngReq := false
      STATUS := { s.STATUS with BUSY := false, DONE := true, ERR := true } }) ∧
    (s.BLKSIZE.toNat ≤ s.cfg.nb → s.R < 256 ^ s.BLKSIZE.toNat → ∃ m, exec .int2blk s = .next { s with
        BLK := m
        RC := .ok, drawn := [], rngReq := false, STATUS := { s.STATUS with BUSY := false, DONE := true } } ∧
      ∀ a, Memory.read m a =
        if a < s.BLKSIZE.toNat then BitVec.ofNat 8 (s.R / 256 ^ (s.BLKSIZE.toNat - 1 - a) % 256)
        else Memory.read s.BLK a)

/-- R114: the two conversions are inverse to each other on bs-byte strings and integers below 256^bs. -/
def Obligations.ConversionsAreInverse : Prop :=
  (∀ (v len : Nat), v < 256 ^ len → (int2be v len).length = len ∧ be2int (int2be v len) = v) ∧
  (∀ bs : List Byte, be2int bs < 256 ^ bs.length ∧ int2be (be2int bs) bs.length = bs)

/-! ### Host access -/

/-- R44: an access is performed exactly when it is 4 bytes wide, aligned and inside 0x000..0xFFF; any other is refused. -/
def Obligations.OnlyAlignedWordAccessesExist : Prop :=
  ∀ (s : State) (addr n : Nat) (v : Word) (rest : List Turn),
    (n = 4 → addr % 4 = 0 → addr < 0x1000 →
      (∃ t, step { s with turns := .hostRead addr n :: rest } = .next t) ∧
      (∃ t, step { s with turns := .hostWrite addr n v :: rest } = .next t)) ∧
    (¬ (n = 4 ∧ addr % 4 = 0 ∧ addr < 0x1000) →
      (∃ r, step { s with turns := .hostRead addr n :: rest } = .refused r) ∧
      (∃ r, step { s with turns := .hostWrite addr n v :: rest } = .refused r))

/-- R20, R22, R23, R24, R30: what the eleven control and status registers read as while idle, at their offsets. -/
def Obligations.ControlRegistersReadAtTheirOffsets : Prop :=
  ∀ (s : State) (rest : List Turn), s.STATUS.BUSY = false →
    let reads (addr : Nat) (v : Word) :=
      step { s with turns := .hostRead addr 4 :: rest } = .next { s with turns := rest, readData := some v }
    reads 0x000 s.CMD ∧
    reads 0x004 (BitVec.ofNat 32 (2 * s.STATUS.DONE.toNat + 4 * s.STATUS.ERR.toNat + 8 * s.STATUS.PRIME.toNat +
      16 * s.STATUS.PADFB.toNat + 32 * s.STATUS.WRBUSY.toNat)) ∧
    reads 0x008 (BitVec.ofNat 32 s.RC.number.toNat) ∧
    reads 0x00C (BitVec.ofNat 32 (s.IEN.IE_DONE.toNat + 2 * s.IEN.IE_ERR.toNat)) ∧
    reads 0x010 s.K ∧ reads 0x014 s.BITLEN ∧ reads 0x018 s.BLKSIZE ∧ reads 0x01C s.DLEN ∧ reads 0x020 s.FBCNT ∧
    reads 0x024 (BitVec.ofNat 32 s.cfg.maxbits) ∧ reads 0x028 s.RNDCNT

/-- R20, R22, R24, R47: what a write to each control and status register but CMD does while idle. -/
def Obligations.ControlRegistersTakeWrites : Prop :=
  ∀ (s : State) (v : Word) (rest : List Turn), s.STATUS.BUSY = false → s.rst = false →
    let writes (addr : Nat) (t : State) := step { s with turns := .hostWrite addr 4 v :: rest } = .next { t with turns := rest }
    writes 0x004 { s with STATUS := { s.STATUS with
      DONE := s.STATUS.DONE && !v.getLsbD 1, ERR := s.STATUS.ERR && !v.getLsbD 2,
      WRBUSY := s.STATUS.WRBUSY && !v.getLsbD 5 } } ∧
    writes 0x008 s ∧
    writes 0x00C { s with IEN := { IE_DONE := v.getLsbD 0, IE_ERR := v.getLsbD 1 } } ∧
    writes 0x010 { s with K := v } ∧ writes 0x014 { s with BITLEN := v } ∧ writes 0x018 { s with BLKSIZE := v } ∧
    writes 0x01C { s with DLEN := v } ∧ writes 0x020 { s with FBCNT := v } ∧ writes 0x024 s ∧ writes 0x028 s

/-- R43: word j of an operand window reads bits 32*j+31..32*j of the register, and a write replaces exactly those bits. -/
def Obligations.OperandWindowWords : Prop :=
  ∀ (s : State) (x : Operand) (j : Nat) (v : Word) (rest : List Turn),
    s.cfg.legal = true → s.STATUS.BUSY = false → s.rst = false → j < s.cfg.nw →
    (∃ w : Word, step { s with turns := .hostRead (x.base + 4 * j) 4 :: rest } =
        .next { s with turns := rest, readData := some w } ∧
      ∀ b, b < 32 → w.getLsbD b = (s.operand x).testBit (32 * j + b)) ∧
    (∃ y : Nat, step { s with turns := .hostWrite (x.base + 4 * j) 4 v :: rest } =
        .next (State.setOperand { s with turns := rest } y x) ∧
      ∀ b, y.testBit b = if 32 * j ≤ b ∧ b < 32 * j + 32 then v.getLsbD (b - 32 * j) else (s.operand x).testBit b)

/-- R45: word j of a buffer window holds bytes 4*j to 4*j+3, the lower-indexed byte in the less significant lane, and a
write replaces all four and nothing else. -/
def Obligations.BufferWindowWords : Prop :=
  ∀ (s : State) (x : Buffer) (j : Nat) (v : Word) (rest : List Turn),
    s.cfg.legal = true → s.STATUS.BUSY = false → s.rst = false → j < s.cfg.nw →
    (∃ w : Word, step { s with turns := .hostRead (x.base + 4 * j) 4 :: rest } =
        .next { s with turns := rest, readData := some w } ∧
      ∀ b, b < 4 → w.extractLsb' (8 * b) 8 = Memory.read (s.buffer x) (4 * j + b)) ∧
    (∃ m : Memory, step { s with turns := .hostWrite (x.base + 4 * j) 4 v :: rest } =
        .next (State.setBuffer { s with turns := rest } m x) ∧
      ∀ a, Memory.read m a =
        if 4 * j ≤ a ∧ a < 4 * j + 4 then v.extractLsb' (8 * (a - 4 * j)) 8 else Memory.read (s.buffer x) a)

/-- R46: an unmapped offset reads 0 and ignores writes; a write to one while BUSY sets WRBUSY. That the unmapped words of a
window read 0 while BUSY too is the model's choice (log 7), since R51 (c) leaves window reads open. -/
def Obligations.UnmappedOffsetsReadZero : Prop :=
  ∀ (s : State) (addr : Nat) (v : Word) (rest : List Turn), addr % 4 = 0 → UnmappedOffset s.cfg addr →
    step { s with turns := .hostRead addr 4 :: rest } = .next { s with turns := rest, readData := some 0#32 } ∧
    (s.rst = false → s.STATUS.BUSY = false →
      step { s with turns := .hostWrite addr 4 v :: rest } = .next { s with turns := rest }) ∧
    (s.rst = false → s.STATUS.BUSY = true → step { s with turns := .hostWrite addr 4 v :: rest } =
      .next { s with turns := rest, STATUS := { s.STATUS with WRBUSY := true } })

/-- R51: while BUSY (a) every write is discarded and sets WRBUSY, (b) CMD, STATUS, RC, IEN, K, BITLEN, BLKSIZE, CAP and
FBCNT read exactly (DONE and RC as 0), (c) DLEN, RNDCNT and the windows read a free value, and nothing but the block's own
step and reset ends the running command. -/
def Obligations.AccessesWhileBusy : Prop :=
  ∀ (s : State) (rest : List Turn), s.STATUS.BUSY = true → s.rst = false →
    (∀ addr v, addr % 4 = 0 → addr < 0x1000 → step { s with turns := .hostWrite addr 4 v :: rest } =
      .next { s with turns := rest, STATUS := { s.STATUS with WRBUSY := true } }) ∧
    (let reads (addr : Nat) (v : Word) :=
        step { s with turns := .hostRead addr 4 :: rest } = .next { s with turns := rest, readData := some v };
      reads 0x000 s.CMD ∧
      reads 0x004 (BitVec.ofNat 32 (1 + 2 * s.STATUS.DONE.toNat + 4 * s.STATUS.ERR.toNat +
        8 * s.STATUS.PRIME.toNat + 16 * s.STATUS.PADFB.toNat + 32 * s.STATUS.WRBUSY.toNat)) ∧
      reads 0x008 (BitVec.ofNat 32 s.RC.number.toNat) ∧
      reads 0x00C (BitVec.ofNat 32 (s.IEN.IE_DONE.toNat + 2 * s.IEN.IE_ERR.toNat)) ∧
      reads 0x010 s.K ∧ reads 0x014 s.BITLEN ∧ reads 0x018 s.BLKSIZE ∧
      reads 0x024 (BitVec.ofNat 32 s.cfg.maxbits) ∧ reads 0x020 s.FBCNT) ∧
    (s.Inv → s.STATUS.DONE = false ∧ s.RC.number.toNat = 0) ∧
    (∀ addr, addr % 4 = 0 → addr < 0x1000 →
      (addr = 0x01C ∨ addr = 0x028 ∨ (0x200 ≤ addr ∧ addr % 0x200 / 4 < s.cfg.nw)) →
      step { s with turns := .hostRead addr 4 :: rest } = .next { s with
        turns := rest, readData := some (Config.freeWord s.freeCount), freeCount := s.freeCount + 1 }) ∧
    (∀ x t, x ≠ .block → x ≠ .rst true → step { s with turns := x :: rest } = .next t →
      t.STATUS.BUSY = true ∧ t.CMD = s.CMD)

/-- R47: no read changes anything of the block, busy or idle; every write but one to CMD is idempotent. -/
def Obligations.ReadsHaveNoEffectAndWritesRepeat : Prop :=
  (∀ (s t : State) (addr n : Nat) (rest : List Turn), step { s with turns := .hostRead addr n :: rest } = .next t →
    { t with readData := s.readData, freeCount := s.freeCount } = { s with turns := rest }) ∧
  (∀ (s t u : State) (addr n : Nat) (v : Word) (rest : List Turn), s.Inv → 4 ≤ addr →
    step { s with turns := .hostWrite addr n v :: .hostWrite addr n v :: rest } = .next t → step t = .next u →
    u = { t with turns := rest })

/-- R32: the reserved bits of STATUS, RC and IEN read as 0 in every state, and writing ones to them changes nothing and is
no error. -/
def Obligations.ReservedBitsReadZeroAndIgnoreWrites : Prop :=
  ∀ (s : State) (v : Word) (rest : List Turn),
    (∀ t b, step { s with turns := .hostRead 0x004 4 :: rest } = .next t → 6 ≤ b → (t.readData.getD 0#32).getLsbD b = false) ∧
    (∀ t b, step { s with turns := .hostRead 0x008 4 :: rest } = .next t → 8 ≤ b → (t.readData.getD 0#32).getLsbD b = false) ∧
    (∀ t b, step { s with turns := .hostRead 0x00C 4 :: rest } = .next t → 2 ≤ b → (t.readData.getD 0#32).getLsbD b = false) ∧
    (∃ t, step { s with turns := .hostWrite 0x004 4 v :: rest } = .next t ∧
      step { s with turns := .hostWrite 0x004 4 (v &&& 0x0000003F#32) :: rest } = .next t) ∧
    (∃ t, step { s with turns := .hostWrite 0x00C 4 v :: rest } = .next t ∧
      step { s with turns := .hostWrite 0x00C 4 (v &&& 0x00000003#32) :: rest } = .next t)

/-! ### Result flags, counters, interrupt -/

/-- R29: FBCNT counts the fallbacks of UNPAD, saturating; the host may write any value; no other command changes it, CLR
included; it is 0 after reset. Over steps: from a state of the invariant, a step that is no assertion of reset, no idle host
write at 0x020 and no completion of UNPAD with InvalidPadding leaves it, whoever moves. -/
def Obligations.FbcntCountsFallbacks : Prop :=
  State.reset.FBCNT = 0#32 ∧ ∀ (s : State),
    (∀ i t, i ≠ .unpad → exec i s = .next t → t.FBCNT = s.FBCNT) ∧
    (∀ t, exec .unpad s = .next t →
      t.FBCNT.toNat = if t.RC = .invalidPadding then min (s.FBCNT.toNat + 1) (2 ^ 32 - 1) else s.FBCNT.toNat) ∧
    (∀ v rest, s.STATUS.BUSY = false → s.rst = false →
      step { s with turns := .hostWrite 0x020 4 v :: rest } = .next { s with turns := rest, FBCNT := v }) ∧
    (∀ t, s.Inv → step s = .next t → t.FBCNT ≠ s.FBCNT →
      (∃ rest, s.turns = .rst true :: rest) ∨
      (∃ v rest, s.turns = .hostWrite 0x020 4 v :: rest ∧ s.STATUS.BUSY = false) ∨
      (s.STATUS.BUSY = true ∧ decode s.CMD = .command .unpad ∧ t.STATUS.BUSY = false ∧ t.RC = .invalidPadding))

/-- R132, R133: IRQ is a level, a function of STATUS and IEN: with DONE set and IE_DONE then written 1 it goes high at that
write, and it is low again once DONE is cleared (IE_ERR off); WRBUSY raises no interrupt. -/
def Obligations.IrqIsALevel : Prop :=
  (∀ s : State, s.IRQ = true ↔
    (s.IEN.IE_DONE = true ∧ s.STATUS.DONE = true) ∨ (s.IEN.IE_ERR = true ∧ s.STATUS.ERR = true)) ∧
  ∀ (s : State) (v : Word) (rest : List Turn), s.STATUS.BUSY = false → s.rst = false →
    (s.STATUS.DONE = true → v.getLsbD 0 = true →
      ∃ t, step { s with turns := .hostWrite 0x00C 4 v :: rest } = .next t ∧ t.IRQ = true ∧ t.STATUS = s.STATUS) ∧
    (s.IEN.IE_ERR = false → v.getLsbD 1 = true →
      ∃ t, step { s with turns := .hostWrite 0x004 4 v :: rest } = .next t ∧ t.IRQ = false) ∧
    (∀ x, State.IRQ { s with STATUS := { s.STATUS with WRBUSY := x } } = s.IRQ)

/-- R129, R132: the interrupt at a completion from a state with ERR clear: IE_DONE fires for every completion, IE_ERR
exactly for the fatal ones, so it does not fire for InvalidPadding. -/
def Obligations.InterruptAtCompletion : Prop :=
  ∀ (i : Instr) (s t : State), s.STATUS.BUSY = true → s.STATUS.ERR = false → exec i s = .next t →
    t.STATUS.BUSY = false →
    (s.IEN.IE_DONE = true → t.IRQ = true) ∧
    (s.IEN.IE_DONE = false → s.IEN.IE_ERR = true → (t.IRQ = true ↔ t.RC.fatal = true)) ∧
    (t.RC = .invalidPadding → t.STATUS.ERR = false ∧ t.STATUS.PADFB = true)

/-- R138: WRBUSY is sticky: once set it stays set through every step, a command start included, but a host write of 1 to its
bit (while idle) and a reset; that write clears it; and setting it changes neither RC, ERR nor IRQ. -/
def Obligations.WrbusyIsSticky : Prop :=
  (∀ (s : State) (v : Word) (rest : List Turn), s.rst = false → s.STATUS.BUSY = false → v.getLsbD 5 = true →
    ∃ t, step { s with turns := .hostWrite 0x004 4 v :: rest } = .next t ∧ t.STATUS.WRBUSY = false) ∧
  (∀ (s t : State) (addr : Nat) (v : Word) (rest : List Turn), s.rst = false → s.STATUS.BUSY = true →
    step { s with turns := .hostWrite addr 4 v :: rest } = .next t →
    t.STATUS.WRBUSY = true ∧ t.RC = s.RC ∧ t.STATUS.ERR = s.STATUS.ERR ∧ t.IRQ = s.IRQ) ∧
  ∀ (s t : State) (x : Turn) (rest : List Turn), s.rst = false → s.STATUS.WRBUSY = true → x ≠ .rst true →
    (∀ v, x = .hostWrite 0x004 4 v → s.STATUS.BUSY = true ∨ v.getLsbD 5 = false) →
    step { s with turns := x :: rest } = .next t →
    t.STATUS.WRBUSY = true

/-! ### Reset and invariants -/

/-- R38: the reset value of every piece of state of the block. -/
def Obligations.ResetValues : Prop :=
  let s := State.reset
  s.A = 0 ∧ s.B = 0 ∧ s.E = 0 ∧ s.N = 0 ∧ s.R = 0 ∧ (∀ a, Memory.read s.BLK a = 0#8) ∧ (∀ a, Memory.read s.DATA a = 0#8) ∧
  s.CMD = 0#32 ∧ s.STATUS.word = 0#32 ∧ s.RC.word = 0#32 ∧ s.IEN.word = 0#32 ∧ s.K = 5#32 ∧ s.BITLEN = 0#32 ∧
  s.BLKSIZE = 0#32 ∧ s.DLEN = 0#32 ∧ s.FBCNT = 0#32 ∧ s.readLoc (.csr .cap) = BitVec.ofNat 32 s.cfg.maxbits ∧
  s.RNDCNT = 0#32 ∧ s.drawn = [] ∧ s.rngReq = false ∧ s.IRQ = false

/-- R141, R142: from every state, busy or idle, asserting rst gives the reset values at once (the running command, its
answers and its request are gone), releasing it leaves them, and the answer of a withdrawn request is dropped whenever it
arrives. MAXBITS is a parameter and stays. That a host write is ignored while the input is high is the model's choice
(log 8). -/
def Obligations.ResetAbandonsEverything : Prop :=
  ∀ (s : State) (rest : List Turn),
    let cleared (level : Bool) : State := { State.reset with
      cfg := s.cfg, rst := level, turns := rest, readData := s.readData, freeCount := s.freeCount }
    step { s with turns := .rst true :: rest } = .next (cleared true) ∧
    (s.rst = true → step { s with turns := .rst false :: rest } = .next (cleared false)) ∧
    (cleared true).IRQ = false ∧
    (∀ x, step { s with turns := .rngStale x :: rest } = .next { s with turns := rest }) ∧
    (∀ x t, s.Inv → s.rst = true → x ≠ .rst false → step { s with turns := x :: rest } = .next t →
      { t with readData := s.readData } = cleared true)

/-- The reset state satisfies the invariant. -/
def Obligations.ResetSatisfiesInv : Prop := State.reset.Inv

/-- Every step, whoever moves, keeps the invariant. -/
def Obligations.StepKeepsInv : Prop := ∀ s t : State, s.Inv → step s = .next t → t.Inv

/-- Whoever moves, a step never changes the width MAXBITS (R8, R30) and takes at most its own turn off the list. That the
width is a field and that the moves to come are a list are the model's choices (log 4, log 1). -/
def Obligations.StepKeepsTheWidth : Prop :=
  ∀ s t : State, step s = .next t → t.cfg = s.cfg ∧ t.turns = s.turns.tail

/-- The block stops for no reason of its own: a step is refused only for a host access that is no operation of the
interface (R44), and there is no fault (R125). -/
def Obligations.StepRefusesOnlyBadAccesses : Prop :=
  ∀ s : State, (∃ t, step s = .next t) ∨
    ∃ r addr n, step s = .refused r ∧ ¬ (n = 4 ∧ addr % 4 = 0 ∧ addr < 0x1000) ∧
      ((∃ rest, s.turns = .hostRead addr n :: rest) ∨ ∃ v rest, s.turns = .hostWrite addr n v :: rest)
end

