-- ==== Sys2Proof/Laws/Memory.lean ====
section
/-! SUPPORT. The laws of the byte buffers: what a read gives after a write, and that every operation keeps the canonical
form and the bound on the indices. -/

namespace Sys2Proof.Machine

@[simp] theorem Memory.read_nil (a : Nat) : Memory.read [] a = 0#8 := rfl

theorem Memory.read_cons (x : Nat) (v : Byte) (m : Memory) (a : Nat) :
    Memory.read ((x, v) :: m) a = if x = a then v else Memory.read m a := rfl

theorem Memory.read_erase (m : Memory) (a b : Nat) :
    Memory.read (Memory.erase m a) b = if b = a then 0#8 else Memory.read m b := by
  induction m with
  | nil => simp [Memory.erase]
  | cons c m ih =>
    obtain ⟨x, v⟩ := c
    by_cases hx : x = a
    · subst hx
      by_cases hb : b = x
      · simpa [Memory.erase, hb] using ih
      · simp [Memory.erase, ih, hb, Memory.read_cons, Ne.symm hb]
    · by_cases hb : x = b
      · subst hb
        simp [Memory.erase, hx, Memory.read_cons]
      · simp [Memory.erase, hx, Memory.read_cons, hb, ih]

theorem Memory.read_insert (m : Memory) (a b : Nat) (v : Byte)
    (he : ∀ c ∈ m, c.1 ≠ a) :
    Memory.read (Memory.insert m a v) b = if b = a then v else Memory.read m b := by
  induction m with
  | nil => simp [Memory.insert, Memory.read_cons, eq_comm]
  | cons c m ih =>
    obtain ⟨x, w⟩ := c
    have hx : x ≠ a := he (x, w) (by simp)
    by_cases hax : a < x
    · simp [Memory.insert, hax, Memory.read_cons, eq_comm]
    · by_cases hb : x = b
      · subst hb
        simp [Memory.insert, hax, Memory.read_cons, hx]
      · simp [Memory.insert, hax, Memory.read_cons, hb, ih (fun c hc => he c (by simp [hc]))]

theorem Memory.erase_absent (m : Memory) (a : Nat) : ∀ c ∈ Memory.erase m a, c.1 ≠ a := by
  induction m with
  | nil => simp [Memory.erase]
  | cons c m ih =>
    obtain ⟨x, v⟩ := c
    by_cases hx : x = a
    · simpa [Memory.erase, hx] using ih
    · simpa [Memory.erase, hx] using ih

/-- A write changes the byte it names and no other. -/
theorem Memory.read_write (m : Memory) (a b : Nat) (v : Byte) :
    Memory.read (Memory.write m a v) b = if b = a then v else Memory.read m b := by
  by_cases hv : v = Memory.unlisted
  · subst hv
    simp [Memory.write, Memory.read_erase, Memory.unlisted]
  · rw [Memory.write, if_neg hv, Memory.read_insert _ _ _ _ (Memory.erase_absent m a),
      Memory.read_erase]
    split <;> simp_all

/-- A string write changes the bytes it covers and no other. -/
theorem Memory.read_writeBytes (vs : List Byte) (m : Memory) (a b : Nat) :
    Memory.read (Memory.writeBytes m a vs) b =
      if a ≤ b ∧ b < a + vs.length then vs.getD (b - a) 0#8 else Memory.read m b := by
  induction vs generalizing m a with
  | nil =>
    simp [Memory.writeBytes]
  | cons v vs ih =>
    rw [Memory.writeBytes, ih, Memory.read_write]
    by_cases h1 : a + 1 ≤ b ∧ b < a + 1 + vs.length
    · have h2 : a ≤ b ∧ b < a + (v :: vs).length := by simp; omega
      have h3 : b - a = (b - (a + 1)) + 1 := by omega
      rw [if_pos h1, if_pos h2, h3, List.getD_cons_succ]
    · rw [if_neg h1]
      by_cases h2 : b = a
      · subst h2; simp
      · have h3 : ¬ (a ≤ b ∧ b < a + (v :: vs).length) := by simp; omega
        rw [if_neg h2, if_neg h3]

@[simp] theorem Memory.length_readBytes (m : Memory) (a n : Nat) : (Memory.readBytes m a n).length = n := by
  induction n generalizing a with
  | zero => rfl
  | succ n ih => simp [Memory.readBytes, ih]

theorem Memory.getD_readBytes (m : Memory) (a n i : Nat) (h : i < n) :
    (Memory.readBytes m a n).getD i 0#8 = Memory.read m (a + i) := by
  induction n generalizing a i with
  | zero => omega
  | succ n ih =>
    cases i with
    | zero => simp [Memory.readBytes]
    | succ i => rw [Memory.readBytes, List.getD_cons_succ, ih _ _ (by omega)]; congr 1; omega

/-! ### The canonical form -/

theorem Memory.wfFrom_mono (m : Memory) (lo lo' : Nat) (h : lo' ≤ lo) (hm : Memory.wfFrom lo m = true) :
    Memory.wfFrom lo' m = true := by
  cases m with
  | nil => rfl
  | cons c m =>
    obtain ⟨x, v⟩ := c
    simp only [Memory.wfFrom, Bool.and_eq_true, decide_eq_true_eq] at hm ⊢
    exact ⟨⟨by omega, hm.1.2⟩, hm.2⟩

theorem Memory.wfFrom_erase (m : Memory) (lo a : Nat) (hm : Memory.wfFrom lo m = true) :
    Memory.wfFrom lo (Memory.erase m a) = true := by
  induction m generalizing lo with
  | nil => rfl
  | cons c m ih =>
    obtain ⟨x, v⟩ := c
    simp only [Memory.wfFrom, Bool.and_eq_true, decide_eq_true_eq] at hm
    by_cases hx : x = a
    · simpa [Memory.erase, hx] using ih lo (Memory.wfFrom_mono m _ _ (by omega) hm.2)
    · simp only [Memory.erase, hx, if_false, Memory.wfFrom, Bool.and_eq_true, decide_eq_true_eq]
      exact ⟨hm.1, ih _ hm.2⟩

theorem Memory.wfFrom_insert (m : Memory) (lo a : Nat) (v : Byte) (hlo : lo ≤ a) (hv : v ≠ Memory.unlisted)
    (he : ∀ c ∈ m, c.1 ≠ a) (hm : Memory.wfFrom lo m = true) : Memory.wfFrom lo (Memory.insert m a v) = true := by
  induction m generalizing lo with
  | nil => simp [Memory.insert, Memory.wfFrom, hlo, hv]
  | cons c m ih =>
    obtain ⟨x, w⟩ := c
    have hx : x ≠ a := he (x, w) (by simp)
    simp only [Memory.wfFrom, Bool.and_eq_true, decide_eq_true_eq] at hm
    by_cases hax : a < x
    · simp only [Memory.insert, hax, if_true, Memory.wfFrom, Bool.and_eq_true, decide_eq_true_eq]
      exact ⟨⟨hlo, by simpa using hv⟩, ⟨by omega, hm.1.2⟩, hm.2⟩
    · simp only [Memory.insert, hax, if_false, Memory.wfFrom, Bool.and_eq_true, decide_eq_true_eq]
      exact ⟨hm.1, ih _ (by omega) (fun c hc => he c (by simp [hc])) hm.2⟩

/-- Every write keeps the canonical form. -/
theorem Memory.wf_write (m : Memory) (a : Nat) (v : Byte) (hm : m.wf = true) : (Memory.write m a v).wf = true := by
  unfold Memory.wf Memory.write at *
  split
  · exact Memory.wfFrom_erase m 0 a hm
  · exact Memory.wfFrom_insert _ 0 a v (by omega) ‹_› (Memory.erase_absent m a) (Memory.wfFrom_erase m 0 a hm)

/-- Every string write keeps the canonical form. -/
theorem Memory.wf_writeBytes (vs : List Byte) (m : Memory) (a : Nat) (hm : m.wf = true) :
    (Memory.writeBytes m a vs).wf = true := by
  induction vs generalizing m a with
  | nil => exact hm
  | cons v vs ih => exact ih _ _ (Memory.wf_write m a v hm)

/-- A write to a buffer word keeps the canonical form. -/
theorem Memory.wf_setBufferWord (m : Memory) (j : Nat) (v : Word) (hm : m.wf = true) :
    (setBufferWord m j v).wf = true := Memory.wf_writeBytes _ _ _ hm

theorem Memory.below_erase (nb : Nat) (m : Memory) (a : Nat) (hm : Memory.below nb m = true) :
    Memory.below nb (Memory.erase m a) = true := by
  induction m with
  | nil => rfl
  | cons c m ih =>
    obtain ⟨x, v⟩ := c
    simp only [Memory.below, List.all_cons, Bool.and_eq_true] at hm ih ⊢
    by_cases hx : x = a
    · simpa [Memory.erase, hx] using ih hm.2
    · simp only [Memory.erase, hx, if_false, List.all_cons, Bool.and_eq_true]
      exact ⟨hm.1, ih hm.2⟩

theorem Memory.below_insert (nb : Nat) (m : Memory) (a : Nat) (v : Byte) (ha : a < nb)
    (hm : Memory.below nb m = true) : Memory.below nb (Memory.insert m a v) = true := by
  induction m with
  | nil => simp [Memory.insert, Memory.below, ha]
  | cons c m ih =>
    obtain ⟨x, w⟩ := c
    simp only [Memory.below, List.all_cons, Bool.and_eq_true] at hm ih ⊢
    by_cases hax : a < x
    · simp only [Memory.insert, hax, if_true, List.all_cons, Bool.and_eq_true]
      exact ⟨by simpa using ha, hm.1, hm.2⟩
    · simp only [Memory.insert, hax, if_false, List.all_cons, Bool.and_eq_true]
      exact ⟨hm.1, ih hm.2⟩

/-- A write below the bound keeps every index below it. -/
theorem Memory.below_write (nb : Nat) (m : Memory) (a : Nat) (v : Byte) (ha : a < nb)
    (hm : Memory.below nb m = true) : Memory.below nb (Memory.write m a v) = true := by
  unfold Memory.write
  split
  · exact Memory.below_erase nb m a hm
  · exact Memory.below_insert nb _ a v ha (Memory.below_erase nb m a hm)

/-- A string write below the bound keeps every index below it. -/
theorem Memory.below_writeBytes (nb : Nat) (vs : List Byte) (m : Memory) (a : Nat) (ha : a + vs.length ≤ nb)
    (hm : Memory.below nb m = true) : Memory.below nb (Memory.writeBytes m a vs) = true := by
  induction vs generalizing m a with
  | nil => exact hm
  | cons v vs ih =>
    simp only [List.length_cons] at ha
    exact ih _ _ (by omega) (Memory.below_write nb m a v (by omega) hm)

/-! ### Equal reads, equal buffers -/

theorem Memory.read_below_from (m : Memory) (lo a : Nat) (ha : a < lo) (hm : Memory.wfFrom lo m = true) :
    Memory.read m a = 0#8 := by
  induction m generalizing lo with
  | nil => rfl
  | cons c m ih =>
    obtain ⟨x, v⟩ := c
    simp only [Memory.wfFrom, Bool.and_eq_true, decide_eq_true_eq] at hm
    rw [Memory.read_cons, if_neg (by omega), ih (x + 1) (by omega) hm.2]

theorem Memory.eq_of_wfFrom (m m' : Memory) (lo : Nat) (hm : Memory.wfFrom lo m = true)
    (hm' : Memory.wfFrom lo m' = true) (h : ∀ a, Memory.read m a = Memory.read m' a) : m = m' := by
  induction m generalizing m' lo with
  | nil =>
    cases m' with
    | nil => rfl
    | cons c m' =>
      obtain ⟨x, v⟩ := c
      simp only [Memory.wfFrom, Bool.and_eq_true, bne_iff_ne, Memory.unlisted] at hm'
      exact absurd (by simpa [Memory.read_cons] using (h x).symm) hm'.1.2
  | cons c m ih =>
    obtain ⟨x, v⟩ := c
    cases m' with
    | nil =>
      simp only [Memory.wfFrom, Bool.and_eq_true, bne_iff_ne, Memory.unlisted] at hm
      exact absurd (by simpa [Memory.read_cons] using h x) hm.1.2
    | cons c' m' =>
      obtain ⟨y, w⟩ := c'
      simp only [Memory.wfFrom, Bool.and_eq_true, decide_eq_true_eq, bne_iff_ne, Memory.unlisted] at hm hm'
      have hxy : x = y := by
        rcases Nat.lt_trichotomy x y with hl | he | hl
        · have := h x
          rw [Memory.read_cons, if_pos rfl, Memory.read_cons, if_neg (by omega),
            Memory.read_below_from m' (y + 1) x (by omega) hm'.2] at this
          exact absurd this hm.1.2
        · exact he
        · have := h y
          rw [Memory.read_cons, if_neg (by omega), Memory.read_cons, if_pos rfl,
            Memory.read_below_from m (x + 1) y (by omega) hm.2] at this
          exact absurd this.symm hm'.1.2
      subst hxy
      have hv : v = w := by simpa [Memory.read_cons] using h x
      subst hv
      rw [ih m' (x + 1) hm.2 hm'.2]
      intro a
      rcases Nat.lt_trichotomy a x with hl | he | hl
      · rw [Memory.read_below_from m (x + 1) a (by omega) hm.2,
          Memory.read_below_from m' (x + 1) a (by omega) hm'.2]
      · rw [Memory.read_below_from m (x + 1) a (by omega) hm.2,
          Memory.read_below_from m' (x + 1) a (by omega) hm'.2]
      · have := h a
        rwa [Memory.read_cons, if_neg (by omega), Memory.read_cons, if_neg (by omega)] at this

/-- Two buffers in canonical form with the same bytes are the same data. -/
theorem Memory.eq_of_wf (m m' : Memory) (hm : m.wf = true) (hm' : m'.wf = true)
    (h : ∀ a, Memory.read m a = Memory.read m' a) : m = m' := Memory.eq_of_wfFrom m m' 0 hm hm' h

end Sys2Proof.Machine
end

