-- ==== Sys2Proof/Laws/Numbers.lean ====
section
/-! SUPPORT. Bit lengths, byte strings as numbers, and what the drawing functions answer on answers of a given shape. -/

namespace Sys2Proof.Machine

/-! ### Bit lengths -/

theorem lt_two_pow_bitlen (x : Nat) : x < 2 ^ bitlen x := by
  unfold bitlen
  split
  · simp_all
  · exact Nat.lt_log2_self

theorem two_pow_bitlen_le (x : Nat) (hx : x ≠ 0) : 2 ^ (bitlen x - 1) ≤ x := by
  simpa [bitlen, hx] using Nat.log2_self_le hx

theorem bitlen_pos (x : Nat) (hx : x ≠ 0) : 0 < bitlen x := by simp [bitlen, hx]

/-- The bit length is the one number with the bounds of R10. -/
theorem bitlen_unique (x len : Nat) (h1 : 2 ^ (len - 1) ≤ x) (h2 : x < 2 ^ len) (h3 : 0 < len) : len = bitlen x := by
  have hx : x ≠ 0 := by
    have := Nat.two_pow_pos (len - 1)
    omega
  have a := lt_of_le_of_lt h1 (lt_two_pow_bitlen x)
  have b := lt_of_le_of_lt (two_pow_bitlen_le x hx) h2
  have c := (Nat.pow_lt_pow_iff_right (by omega : 1 < 2)).mp a
  have d := (Nat.pow_lt_pow_iff_right (by omega : 1 < 2)).mp b
  have := bitlen_pos x hx
  omega

/-! ### Byte strings -/

theorem be2intFrom_eq (bs : List Byte) (acc : Nat) : be2intFrom acc bs = acc * 256 ^ bs.length + be2int bs := by
  unfold be2int
  induction bs generalizing acc with
  | nil => simp [be2intFrom]
  | cons v vs ih =>
    rw [be2intFrom, be2intFrom, ih, ih (0 * 256 + v.toNat), List.length_cons, pow_succ]
    ring

@[simp] theorem be2int_nil : be2int [] = 0 := rfl

theorem be2int_cons (v : Byte) (vs : List Byte) : be2int (v :: vs) = v.toNat * 256 ^ vs.length + be2int vs := by
  rw [be2int, be2intFrom, be2intFrom_eq]
  simp

theorem be2int_lt (bs : List Byte) : be2int bs < 256 ^ bs.length := by
  induction bs with
  | nil => simp
  | cons v vs ih =>
    rw [be2int_cons, List.length_cons, pow_succ]
    have hv := v.isLt
    have : v.toNat * 256 ^ vs.length + 256 ^ vs.length ≤ 256 ^ vs.length * 256 := by
      have : (v.toNat + 1) * 256 ^ vs.length ≤ 256 * 256 ^ vs.length := Nat.mul_le_mul_right _ (by omega)
      linarith
    omega

@[simp] theorem length_int2be (v len : Nat) : (int2be v len).length = len := by
  induction len with
  | zero => rfl
  | succ n ih => simp [int2be, ih]

/-- Byte i of int2be(v, len), as R116 writes it. -/
theorem getD_int2be (v len i : Nat) (h : i < len) :
    (int2be v len).getD i 0#8 = BitVec.ofNat 8 (v / 256 ^ (len - 1 - i)) := by
  induction len generalizing i with
  | zero => omega
  | succ n ih =>
    cases i with
    | zero => simp [int2be]
    | succ i =>
      rw [int2be, List.getD_cons_succ, ih i (by omega)]
      congr 3
      omega

/-! ### Drawing -/

@[simp] theorem Draw.andThen_done {α β : Type} (v : α) (rest : List RngAnswer) (f : α → List RngAnswer → Draw β) :
    (Draw.done v rest).andThen f = f v rest := rfl

@[simp] theorem Draw.andThen_unavailable {α β : Type} (f : α → List RngAnswer → Draw β) :
    (Draw.unavailable : Draw α).andThen f = .unavailable := rfl

@[simp] theorem Draw.andThen_wait {α β : Type} (f : α → List RngAnswer → Draw β) :
    (Draw.wait : Draw α).andThen f = .wait := rfl

/-- Enough bytes: they are taken in order. -/
theorem drawBytes_enough (bytes : List Byte) (rest : List RngAnswer) :
    drawBytes bytes.length (bytes.map .ok ++ rest) = .done bytes rest := by
  induction bytes with
  | nil => rfl
  | cons v vs ih => simp [drawBytes, ih]

/-- Too few bytes: one more is needed. -/
theorem drawBytes_short (bytes : List Byte) (n : Nat) (h : bytes.length < n) : drawBytes n (bytes.map .ok) = .wait := by
  induction bytes generalizing n with
  | nil =>
    obtain ⟨n, rfl⟩ : ∃ k, n = k + 1 := ⟨n - 1, by simp at h; omega⟩
    rfl
  | cons v vs ih =>
    obtain ⟨n, rfl⟩ : ∃ k, n = k + 1 := ⟨n - 1, by simp at h; omega⟩
    simp [drawBytes, ih n (by simpa using h)]

/-- The source fails before the last byte: the draw fails. -/
theorem drawBytes_fails (bytes : List Byte) (n : Nat) (rest : List RngAnswer) (h : bytes.length < n) :
    drawBytes n (bytes.map .ok ++ .unavailable :: rest) = .unavailable := by
  induction bytes generalizing n with
  | nil =>
    obtain ⟨n, rfl⟩ : ∃ k, n = k + 1 := ⟨n - 1, by simp at h; omega⟩
    rfl
  | cons v vs ih =>
    obtain ⟨n, rfl⟩ : ∃ k, n = k + 1 := ⟨n - 1, by simp at h; omega⟩
    simp [drawBytes, ih n (by simpa using h)]

/-- Everything drawBytes can answer: it used exactly n bytes, or a byte was unavailable among fewer, or it waits. -/
theorem drawBytes_cases (n : Nat) (ans : List RngAnswer) :
    (∃ (bytes : List Byte) (rest : List RngAnswer), bytes.length = n ∧ ans = bytes.map .ok ++ rest ∧ drawBytes n ans = .done bytes rest) ∨
    (∃ (bytes : List Byte) (rest : List RngAnswer), bytes.length < n ∧ ans = bytes.map .ok ++ .unavailable :: rest ∧ drawBytes n ans = .unavailable) ∨
    (∃ bytes : List Byte, bytes.length < n ∧ ans = bytes.map .ok ∧ drawBytes n ans = .wait) := by
  induction n generalizing ans with
  | zero => exact .inl ⟨[], ans, rfl, rfl, rfl⟩
  | succ n ih =>
    match ans with
    | [] => exact .inr (.inr ⟨[], by simp, rfl, rfl⟩)
    | .unavailable :: rest => exact .inr (.inl ⟨[], rest, by simp, rfl, rfl⟩)
    | .ok v :: rest =>
      rcases ih rest with ⟨bs, r, hl, hr, hd⟩ | ⟨bs, r, hl, hr, hd⟩ | ⟨bs, hl, hr, hd⟩
      · exact .inl ⟨v :: bs, r, by simp [hl], by simp [hr], by simp [drawBytes, hd]⟩
      · exact .inr (.inl ⟨v :: bs, r, by simpa using hl, by simp [hr], by simp [drawBytes, hd]⟩)
      · exact .inr (.inr ⟨v :: bs, by simpa using hl, by simp [hr], by simp [drawBytes, hd]⟩)

/-- Everything drawNonZero can answer: the first n non-zero bytes in order, a failure among fewer, or one more request. -/
theorem drawNonZero_cases (n : Nat) (ans : List RngAnswer) :
    (∃ (bytes : List Byte) (rest : List RngAnswer), (bytes.filter (fun v => v != 0#8)).length = n ∧ ans = bytes.map .ok ++ rest ∧
      drawNonZero n ans = .done (bytes.filter (fun v => v != 0#8)) rest) ∨
    (∃ (bytes : List Byte) (rest : List RngAnswer), (bytes.filter (fun v => v != 0#8)).length < n ∧ ans = bytes.map .ok ++ .unavailable :: rest ∧
      drawNonZero n ans = .unavailable) ∨
    (∃ bytes : List Byte, (bytes.filter (fun v => v != 0#8)).length < n ∧ ans = bytes.map .ok ∧
      drawNonZero n ans = .wait) := by
  induction ans generalizing n with
  | nil =>
    cases n with
    | zero => exact .inl ⟨[], [], rfl, rfl, rfl⟩
    | succ n => exact .inr (.inr ⟨[], by simp, rfl, rfl⟩)
  | cons x ans ih =>
    cases n with
    | zero => exact .inl ⟨[], _, rfl, rfl, rfl⟩
    | succ n =>
      cases x with
      | unavailable => exact .inr (.inl ⟨[], ans, by simp, rfl, rfl⟩)
      | ok v =>
        by_cases hv : v = 0#8
        · rcases ih (n + 1) with ⟨bs, r, hl, hr, hd⟩ | ⟨bs, r, hl, hr, hd⟩ | ⟨bs, hl, hr, hd⟩
          · exact .inl ⟨v :: bs, r, by simp [hv, hl], by simp [hr], by simp [drawNonZero, hv, hd]⟩
          · exact .inr (.inl ⟨v :: bs, r, by simp [hv]; simpa using hl, by simp [hr], by simp [drawNonZero, hv, hd]⟩)
          · exact .inr (.inr ⟨v :: bs, by simp [hv]; simpa using hl, by simp [hr], by simp [drawNonZero, hv, hd]⟩)
        · rcases ih n with ⟨bs, r, hl, hr, hd⟩ | ⟨bs, r, hl, hr, hd⟩ | ⟨bs, hl, hr, hd⟩
          · exact .inl ⟨v :: bs, r, by simp [hv, hl], by simp [hr], by simp [drawNonZero, hv, hd]⟩
          · exact .inr (.inl ⟨v :: bs, r, by simp [hv]; simpa using hl, by simp [hr], by simp [drawNonZero, hv, hd]⟩)
          · exact .inr (.inr ⟨v :: bs, by simp [hv]; simpa using hl, by simp [hr], by simp [drawNonZero, hv, hd]⟩)

theorem length_wordBytes (v : Word) : (wordBytes v).length = 4 := rfl

end Sys2Proof.Machine
end

