-- ==== Sys2Proof/Laws/PerInstr.lean ====
section
/-! SUPPORT. The facts about each command as syntax, one lemma per constructor: its word is well formed (R59, R62) and the
opcode table's row of that word is read back as it. -/

namespace Sys2Proof.Laws

/-- The command is well formed, its word has RSV = 0 and an opcode of the table, and the table word decodes to it. -/
def TableWord.Statement (i : Instr) : Prop :=
  i.wf = true ∧ wordLegal (encode i) = true ∧ rsvField (encode i) = 0#24 ∧ opField (encode i) = opcodeOf i ∧
    decodeTableWord 32 (encode i).toNat = some i

theorem TableWord.nop : TableWord.Statement .nop := by unfold TableWord.Statement; decide
theorem TableWord.montmul : TableWord.Statement .montmul := by unfold TableWord.Statement; decide
theorem TableWord.modmul : TableWord.Statement .modmul := by unfold TableWord.Statement; decide
theorem TableWord.modexp : TableWord.Statement .modexp := by unfold TableWord.Statement; decide
theorem TableWord.mrtest : TableWord.Statement .mrtest := by unfold TableWord.Statement; decide
theorem TableWord.pad : TableWord.Statement .pad := by unfold TableWord.Statement; decide
theorem TableWord.unpad : TableWord.Statement .unpad := by unfold TableWord.Statement; decide
theorem TableWord.randbits : TableWord.Statement .randbits := by unfold TableWord.Statement; decide
theorem TableWord.randrange : TableWord.Statement .randrange := by unfold TableWord.Statement; decide
theorem TableWord.blk2int : TableWord.Statement .blk2int := by unfold TableWord.Statement; decide
theorem TableWord.int2blk : TableWord.Statement .int2blk := by unfold TableWord.Statement; decide
theorem TableWord.clr : TableWord.Statement .clr := by unfold TableWord.Statement; decide

end Sys2Proof.Laws
end

