-- ==== Sys2Proof/Laws/State.lean ====
section
/-! SUPPORT. One lemma per field per named update of State, true by rfl, so that no later proof unfolds a record update. -/

namespace Sys2Proof.Machine

/-! ### startCommand -/

@[simp] theorem startCommand_cfg (w : Word) (s : State) : (startCommand w s).cfg = s.cfg := rfl
@[simp] theorem startCommand_A (w : Word) (s : State) : (startCommand w s).A = s.A := rfl
@[simp] theorem startCommand_B (w : Word) (s : State) : (startCommand w s).B = s.B := rfl
@[simp] theorem startCommand_E (w : Word) (s : State) : (startCommand w s).E = s.E := rfl
@[simp] theorem startCommand_N (w : Word) (s : State) : (startCommand w s).N = s.N := rfl
@[simp] theorem startCommand_R (w : Word) (s : State) : (startCommand w s).R = s.R := rfl
@[simp] theorem startCommand_BLK (w : Word) (s : State) : (startCommand w s).BLK = s.BLK := rfl
@[simp] theorem startCommand_DATA (w : Word) (s : State) : (startCommand w s).DATA = s.DATA := rfl
@[simp] theorem startCommand_CMD (w : Word) (s : State) : (startCommand w s).CMD = w := rfl
@[simp] theorem startCommand_STATUS (w : Word) (s : State) : (startCommand w s).STATUS = { s.STATUS with BUSY := true, DONE := false, ERR := false, PRIME := false, PADFB := false } := rfl
@[simp] theorem startCommand_RC (w : Word) (s : State) : (startCommand w s).RC = ResultCode.ok := rfl
@[simp] theorem startCommand_IEN (w : Word) (s : State) : (startCommand w s).IEN = s.IEN := rfl
@[simp] theorem startCommand_K (w : Word) (s : State) : (startCommand w s).K = s.K := rfl
@[simp] theorem startCommand_BITLEN (w : Word) (s : State) : (startCommand w s).BITLEN = s.BITLEN := rfl
@[simp] theorem startCommand_BLKSIZE (w : Word) (s : State) : (startCommand w s).BLKSIZE = s.BLKSIZE := rfl
@[simp] theorem startCommand_DLEN (w : Word) (s : State) : (startCommand w s).DLEN = s.DLEN := rfl
@[simp] theorem startCommand_FBCNT (w : Word) (s : State) : (startCommand w s).FBCNT = s.FBCNT := rfl
@[simp] theorem startCommand_RNDCNT (w : Word) (s : State) : (startCommand w s).RNDCNT = s.RNDCNT := rfl
@[simp] theorem startCommand_drawn (w : Word) (s : State) : (startCommand w s).drawn = [] := rfl
@[simp] theorem startCommand_rngReq (w : Word) (s : State) : (startCommand w s).rngReq = false := rfl
@[simp] theorem startCommand_rst (w : Word) (s : State) : (startCommand w s).rst = s.rst := rfl
@[simp] theorem startCommand_turns (w : Word) (s : State) : (startCommand w s).turns = s.turns := rfl
@[simp] theorem startCommand_readData (w : Word) (s : State) : (startCommand w s).readData = s.readData := rfl
@[simp] theorem startCommand_freeCount (w : Word) (s : State) : (startCommand w s).freeCount = s.freeCount := rfl

/-! ### finish -/

@[simp] theorem finish_cfg (c : ResultCode) (s : State) : (finish c s).cfg = s.cfg := rfl
@[simp] theorem finish_A (c : ResultCode) (s : State) : (finish c s).A = s.A := rfl
@[simp] theorem finish_B (c : ResultCode) (s : State) : (finish c s).B = s.B := rfl
@[simp] theorem finish_E (c : ResultCode) (s : State) : (finish c s).E = s.E := rfl
@[simp] theorem finish_N (c : ResultCode) (s : State) : (finish c s).N = s.N := rfl
@[simp] theorem finish_R (c : ResultCode) (s : State) : (finish c s).R = s.R := rfl
@[simp] theorem finish_BLK (c : ResultCode) (s : State) : (finish c s).BLK = s.BLK := rfl
@[simp] theorem finish_DATA (c : ResultCode) (s : State) : (finish c s).DATA = s.DATA := rfl
@[simp] theorem finish_CMD (c : ResultCode) (s : State) : (finish c s).CMD = s.CMD := rfl
@[simp] theorem finish_STATUS (c : ResultCode) (s : State) : (finish c s).STATUS = { s.STATUS with BUSY := false, DONE := true } := rfl
@[simp] theorem finish_RC (c : ResultCode) (s : State) : (finish c s).RC = c := rfl
@[simp] theorem finish_IEN (c : ResultCode) (s : State) : (finish c s).IEN = s.IEN := rfl
@[simp] theorem finish_K (c : ResultCode) (s : State) : (finish c s).K = s.K := rfl
@[simp] theorem finish_BITLEN (c : ResultCode) (s : State) : (finish c s).BITLEN = s.BITLEN := rfl
@[simp] theorem finish_BLKSIZE (c : ResultCode) (s : State) : (finish c s).BLKSIZE = s.BLKSIZE := rfl
@[simp] theorem finish_DLEN (c : ResultCode) (s : State) : (finish c s).DLEN = s.DLEN := rfl
@[simp] theorem finish_FBCNT (c : ResultCode) (s : State) : (finish c s).FBCNT = s.FBCNT := rfl
@[simp] theorem finish_RNDCNT (c : ResultCode) (s : State) : (finish c s).RNDCNT = s.RNDCNT := rfl
@[simp] theorem finish_drawn (c : ResultCode) (s : State) : (finish c s).drawn = [] := rfl
@[simp] theorem finish_rngReq (c : ResultCode) (s : State) : (finish c s).rngReq = false := rfl
@[simp] theorem finish_rst (c : ResultCode) (s : State) : (finish c s).rst = s.rst := rfl
@[simp] theorem finish_turns (c : ResultCode) (s : State) : (finish c s).turns = s.turns := rfl
@[simp] theorem finish_readData (c : ResultCode) (s : State) : (finish c s).readData = s.readData := rfl
@[simp] theorem finish_freeCount (c : ResultCode) (s : State) : (finish c s).freeCount = s.freeCount := rfl

/-! ### complete -/

@[simp] theorem complete_cfg (s : State) : (complete s).cfg = s.cfg := rfl
@[simp] theorem complete_A (s : State) : (complete s).A = s.A := rfl
@[simp] theorem complete_B (s : State) : (complete s).B = s.B := rfl
@[simp] theorem complete_E (s : State) : (complete s).E = s.E := rfl
@[simp] theorem complete_N (s : State) : (complete s).N = s.N := rfl
@[simp] theorem complete_R (s : State) : (complete s).R = s.R := rfl
@[simp] theorem complete_BLK (s : State) : (complete s).BLK = s.BLK := rfl
@[simp] theorem complete_DATA (s : State) : (complete s).DATA = s.DATA := rfl
@[simp] theorem complete_CMD (s : State) : (complete s).CMD = s.CMD := rfl
@[simp] theorem complete_STATUS (s : State) : (complete s).STATUS = { s.STATUS with BUSY := false, DONE := true } := rfl
@[simp] theorem complete_RC (s : State) : (complete s).RC = ResultCode.ok := rfl
@[simp] theorem complete_IEN (s : State) : (complete s).IEN = s.IEN := rfl
@[simp] theorem complete_K (s : State) : (complete s).K = s.K := rfl
@[simp] theorem complete_BITLEN (s : State) : (complete s).BITLEN = s.BITLEN := rfl
@[simp] theorem complete_BLKSIZE (s : State) : (complete s).BLKSIZE = s.BLKSIZE := rfl
@[simp] theorem complete_DLEN (s : State) : (complete s).DLEN = s.DLEN := rfl
@[simp] theorem complete_FBCNT (s : State) : (complete s).FBCNT = s.FBCNT := rfl
@[simp] theorem complete_RNDCNT (s : State) : (complete s).RNDCNT = s.RNDCNT := rfl
@[simp] theorem complete_drawn (s : State) : (complete s).drawn = [] := rfl
@[simp] theorem complete_rngReq (s : State) : (complete s).rngReq = false := rfl
@[simp] theorem complete_rst (s : State) : (complete s).rst = s.rst := rfl
@[simp] theorem complete_turns (s : State) : (complete s).turns = s.turns := rfl
@[simp] theorem complete_readData (s : State) : (complete s).readData = s.readData := rfl
@[simp] theorem complete_freeCount (s : State) : (complete s).freeCount = s.freeCount := rfl

/-! ### raise -/

@[simp] theorem raise_cfg (c : ResultCode) (s : State) : (raise c s).cfg = s.cfg := rfl
@[simp] theorem raise_A (c : ResultCode) (s : State) : (raise c s).A = s.A := rfl
@[simp] theorem raise_B (c : ResultCode) (s : State) : (raise c s).B = s.B := rfl
@[simp] theorem raise_E (c : ResultCode) (s : State) : (raise c s).E = s.E := rfl
@[simp] theorem raise_N (c : ResultCode) (s : State) : (raise c s).N = s.N := rfl
@[simp] theorem raise_R (c : ResultCode) (s : State) : (raise c s).R = s.R := rfl
@[simp] theorem raise_BLK (c : ResultCode) (s : State) : (raise c s).BLK = s.BLK := rfl
@[simp] theorem raise_DATA (c : ResultCode) (s : State) : (raise c s).DATA = s.DATA := rfl
@[simp] theorem raise_CMD (c : ResultCode) (s : State) : (raise c s).CMD = s.CMD := rfl
@[simp] theorem raise_STATUS (c : ResultCode) (s : State) : (raise c s).STATUS = { s.STATUS with BUSY := false, DONE := true, ERR := true } := rfl
@[simp] theorem raise_RC (c : ResultCode) (s : State) : (raise c s).RC = c := rfl
@[simp] theorem raise_IEN (c : ResultCode) (s : State) : (raise c s).IEN = s.IEN := rfl
@[simp] theorem raise_K (c : ResultCode) (s : State) : (raise c s).K = s.K := rfl
@[simp] theorem raise_BITLEN (c : ResultCode) (s : State) : (raise c s).BITLEN = s.BITLEN := rfl
@[simp] theorem raise_BLKSIZE (c : ResultCode) (s : State) : (raise c s).BLKSIZE = s.BLKSIZE := rfl
@[simp] theorem raise_DLEN (c : ResultCode) (s : State) : (raise c s).DLEN = s.DLEN := rfl
@[simp] theorem raise_FBCNT (c : ResultCode) (s : State) : (raise c s).FBCNT = s.FBCNT := rfl
@[simp] theorem raise_RNDCNT (c : ResultCode) (s : State) : (raise c s).RNDCNT = s.RNDCNT := rfl
@[simp] theorem raise_drawn (c : ResultCode) (s : State) : (raise c s).drawn = [] := rfl
@[simp] theorem raise_rngReq (c : ResultCode) (s : State) : (raise c s).rngReq = false := rfl
@[simp] theorem raise_rst (c : ResultCode) (s : State) : (raise c s).rst = s.rst := rfl
@[simp] theorem raise_turns (c : ResultCode) (s : State) : (raise c s).turns = s.turns := rfl
@[simp] theorem raise_readData (c : ResultCode) (s : State) : (raise c s).readData = s.readData := rfl
@[simp] theorem raise_freeCount (c : ResultCode) (s : State) : (raise c s).freeCount = s.freeCount := rfl

/-! ### requestByte -/

@[simp] theorem requestByte_cfg (s : State) : (requestByte s).cfg = s.cfg := rfl
@[simp] theorem requestByte_A (s : State) : (requestByte s).A = s.A := rfl
@[simp] theorem requestByte_B (s : State) : (requestByte s).B = s.B := rfl
@[simp] theorem requestByte_E (s : State) : (requestByte s).E = s.E := rfl
@[simp] theorem requestByte_N (s : State) : (requestByte s).N = s.N := rfl
@[simp] theorem requestByte_R (s : State) : (requestByte s).R = s.R := rfl
@[simp] theorem requestByte_BLK (s : State) : (requestByte s).BLK = s.BLK := rfl
@[simp] theorem requestByte_DATA (s : State) : (requestByte s).DATA = s.DATA := rfl
@[simp] theorem requestByte_CMD (s : State) : (requestByte s).CMD = s.CMD := rfl
@[simp] theorem requestByte_STATUS (s : State) : (requestByte s).STATUS = s.STATUS := rfl
@[simp] theorem requestByte_RC (s : State) : (requestByte s).RC = s.RC := rfl
@[simp] theorem requestByte_IEN (s : State) : (requestByte s).IEN = s.IEN := rfl
@[simp] theorem requestByte_K (s : State) : (requestByte s).K = s.K := rfl
@[simp] theorem requestByte_BITLEN (s : State) : (requestByte s).BITLEN = s.BITLEN := rfl
@[simp] theorem requestByte_BLKSIZE (s : State) : (requestByte s).BLKSIZE = s.BLKSIZE := rfl
@[simp] theorem requestByte_DLEN (s : State) : (requestByte s).DLEN = s.DLEN := rfl
@[simp] theorem requestByte_FBCNT (s : State) : (requestByte s).FBCNT = s.FBCNT := rfl
@[simp] theorem requestByte_RNDCNT (s : State) : (requestByte s).RNDCNT = s.RNDCNT := rfl
@[simp] theorem requestByte_drawn (s : State) : (requestByte s).drawn = s.drawn := rfl
@[simp] theorem requestByte_rngReq (s : State) : (requestByte s).rngReq = true := rfl
@[simp] theorem requestByte_rst (s : State) : (requestByte s).rst = s.rst := rfl
@[simp] theorem requestByte_turns (s : State) : (requestByte s).turns = s.turns := rfl
@[simp] theorem requestByte_readData (s : State) : (requestByte s).readData = s.readData := rfl
@[simp] theorem requestByte_freeCount (s : State) : (requestByte s).freeCount = s.freeCount := rfl

/-! ### resetBlock -/

@[simp] theorem resetBlock_cfg (s : State) : (resetBlock s).cfg = s.cfg := rfl
@[simp] theorem resetBlock_A (s : State) : (resetBlock s).A = State.reset.A := rfl
@[simp] theorem resetBlock_B (s : State) : (resetBlock s).B = State.reset.B := rfl
@[simp] theorem resetBlock_E (s : State) : (resetBlock s).E = State.reset.E := rfl
@[simp] theorem resetBlock_N (s : State) : (resetBlock s).N = State.reset.N := rfl
@[simp] theorem resetBlock_R (s : State) : (resetBlock s).R = State.reset.R := rfl
@[simp] theorem resetBlock_BLK (s : State) : (resetBlock s).BLK = State.reset.BLK := rfl
@[simp] theorem resetBlock_DATA (s : State) : (resetBlock s).DATA = State.reset.DATA := rfl
@[simp] theorem resetBlock_CMD (s : State) : (resetBlock s).CMD = State.reset.CMD := rfl
@[simp] theorem resetBlock_STATUS (s : State) : (resetBlock s).STATUS = State.reset.STATUS := rfl
@[simp] theorem resetBlock_RC (s : State) : (resetBlock s).RC = State.reset.RC := rfl
@[simp] theorem resetBlock_IEN (s : State) : (resetBlock s).IEN = State.reset.IEN := rfl
@[simp] theorem resetBlock_K (s : State) : (resetBlock s).K = State.reset.K := rfl
@[simp] theorem resetBlock_BITLEN (s : State) : (resetBlock s).BITLEN = State.reset.BITLEN := rfl
@[simp] theorem resetBlock_BLKSIZE (s : State) : (resetBlock s).BLKSIZE = State.reset.BLKSIZE := rfl
@[simp] theorem resetBlock_DLEN (s : State) : (resetBlock s).DLEN = State.reset.DLEN := rfl
@[simp] theorem resetBlock_FBCNT (s : State) : (resetBlock s).FBCNT = State.reset.FBCNT := rfl
@[simp] theorem resetBlock_RNDCNT (s : State) : (resetBlock s).RNDCNT = State.reset.RNDCNT := rfl
@[simp] theorem resetBlock_drawn (s : State) : (resetBlock s).drawn = State.reset.drawn := rfl
@[simp] theorem resetBlock_rngReq (s : State) : (resetBlock s).rngReq = State.reset.rngReq := rfl
@[simp] theorem resetBlock_rst (s : State) : (resetBlock s).rst = s.rst := rfl
@[simp] theorem resetBlock_turns (s : State) : (resetBlock s).turns = s.turns := rfl
@[simp] theorem resetBlock_readData (s : State) : (resetBlock s).readData = s.readData := rfl
@[simp] theorem resetBlock_freeCount (s : State) : (resetBlock s).freeCount = s.freeCount := rfl

/-! ### setOperand, setBuffer -/

@[simp] theorem setOperand_cfg (s : State) (v : Nat) (x : Operand) : (s.setOperand v x).cfg = s.cfg := by cases x <;> rfl
@[simp] theorem setOperand_BLK (s : State) (v : Nat) (x : Operand) : (s.setOperand v x).BLK = s.BLK := by cases x <;> rfl
@[simp] theorem setOperand_DATA (s : State) (v : Nat) (x : Operand) : (s.setOperand v x).DATA = s.DATA := by cases x <;> rfl
@[simp] theorem setOperand_CMD (s : State) (v : Nat) (x : Operand) : (s.setOperand v x).CMD = s.CMD := by cases x <;> rfl
@[simp] theorem setOperand_STATUS (s : State) (v : Nat) (x : Operand) : (s.setOperand v x).STATUS = s.STATUS := by cases x <;> rfl
@[simp] theorem setOperand_RC (s : State) (v : Nat) (x : Operand) : (s.setOperand v x).RC = s.RC := by cases x <;> rfl
@[simp] theorem setOperand_IEN (s : State) (v : Nat) (x : Operand) : (s.setOperand v x).IEN = s.IEN := by cases x <;> rfl
@[simp] theorem setOperand_K (s : State) (v : Nat) (x : Operand) : (s.setOperand v x).K = s.K := by cases x <;> rfl
@[simp] theorem setOperand_BITLEN (s : State) (v : Nat) (x : Operand) : (s.setOperand v x).BITLEN = s.BITLEN := by cases x <;> rfl
@[simp] theorem setOperand_BLKSIZE (s : State) (v : Nat) (x : Operand) : (s.setOperand v x).BLKSIZE = s.BLKSIZE := by cases x <;> rfl
@[simp] theorem setOperand_DLEN (s : State) (v : Nat) (x : Operand) : (s.setOperand v x).DLEN = s.DLEN := by cases x <;> rfl
@[simp] theorem setOperand_FBCNT (s : State) (v : Nat) (x : Operand) : (s.setOperand v x).FBCNT = s.FBCNT := by cases x <;> rfl
@[simp] theorem setOperand_RNDCNT (s : State) (v : Nat) (x : Operand) : (s.setOperand v x).RNDCNT = s.RNDCNT := by cases x <;> rfl
@[simp] theorem setOperand_drawn (s : State) (v : Nat) (x : Operand) : (s.setOperand v x).drawn = s.drawn := by cases x <;> rfl
@[simp] theorem setOperand_rngReq (s : State) (v : Nat) (x : Operand) : (s.setOperand v x).rngReq = s.rngReq := by cases x <;> rfl
@[simp] theorem setOperand_rst (s : State) (v : Nat) (x : Operand) : (s.setOperand v x).rst = s.rst := by cases x <;> rfl
@[simp] theorem setOperand_turns (s : State) (v : Nat) (x : Operand) : (s.setOperand v x).turns = s.turns := by cases x <;> rfl
@[simp] theorem setOperand_readData (s : State) (v : Nat) (x : Operand) : (s.setOperand v x).readData = s.readData := by cases x <;> rfl
@[simp] theorem setOperand_freeCount (s : State) (v : Nat) (x : Operand) : (s.setOperand v x).freeCount = s.freeCount := by cases x <;> rfl
@[simp] theorem setBuffer_cfg (s : State) (m : Memory) (x : Buffer) : (s.setBuffer m x).cfg = s.cfg := by cases x <;> rfl
@[simp] theorem setBuffer_A (s : State) (m : Memory) (x : Buffer) : (s.setBuffer m x).A = s.A := by cases x <;> rfl
@[simp] theorem setBuffer_B (s : State) (m : Memory) (x : Buffer) : (s.setBuffer m x).B = s.B := by cases x <;> rfl
@[simp] theorem setBuffer_E (s : State) (m : Memory) (x : Buffer) : (s.setBuffer m x).E = s.E := by cases x <;> rfl
@[simp] theorem setBuffer_N (s : State) (m : Memory) (x : Buffer) : (s.setBuffer m x).N = s.N := by cases x <;> rfl
@[simp] theorem setBuffer_R (s : State) (m : Memory) (x : Buffer) : (s.setBuffer m x).R = s.R := by cases x <;> rfl
@[simp] theorem setBuffer_CMD (s : State) (m : Memory) (x : Buffer) : (s.setBuffer m x).CMD = s.CMD := by cases x <;> rfl
@[simp] theorem setBuffer_STATUS (s : State) (m : Memory) (x : Buffer) : (s.setBuffer m x).STATUS = s.STATUS := by cases x <;> rfl
@[simp] theorem setBuffer_RC (s : State) (m : Memory) (x : Buffer) : (s.setBuffer m x).RC = s.RC := by cases x <;> rfl
@[simp] theorem setBuffer_IEN (s : State) (m : Memory) (x : Buffer) : (s.setBuffer m x).IEN = s.IEN := by cases x <;> rfl
@[simp] theorem setBuffer_K (s : State) (m : Memory) (x : Buffer) : (s.setBuffer m x).K = s.K := by cases x <;> rfl
@[simp] theorem setBuffer_BITLEN (s : State) (m : Memory) (x : Buffer) : (s.setBuffer m x).BITLEN = s.BITLEN := by cases x <;> rfl
@[simp] theorem setBuffer_BLKSIZE (s : State) (m : Memory) (x : Buffer) : (s.setBuffer m x).BLKSIZE = s.BLKSIZE := by cases x <;> rfl
@[simp] theorem setBuffer_DLEN (s : State) (m : Memory) (x : Buffer) : (s.setBuffer m x).DLEN = s.DLEN := by cases x <;> rfl
@[simp] theorem setBuffer_FBCNT (s : State) (m : Memory) (x : Buffer) : (s.setBuffer m x).FBCNT = s.FBCNT := by cases x <;> rfl
@[simp] theorem setBuffer_RNDCNT (s : State) (m : Memory) (x : Buffer) : (s.setBuffer m x).RNDCNT = s.RNDCNT := by cases x <;> rfl
@[simp] theorem setBuffer_drawn (s : State) (m : Memory) (x : Buffer) : (s.setBuffer m x).drawn = s.drawn := by cases x <;> rfl
@[simp] theorem setBuffer_rngReq (s : State) (m : Memory) (x : Buffer) : (s.setBuffer m x).rngReq = s.rngReq := by cases x <;> rfl
@[simp] theorem setBuffer_rst (s : State) (m : Memory) (x : Buffer) : (s.setBuffer m x).rst = s.rst := by cases x <;> rfl
@[simp] theorem setBuffer_turns (s : State) (m : Memory) (x : Buffer) : (s.setBuffer m x).turns = s.turns := by cases x <;> rfl
@[simp] theorem setBuffer_readData (s : State) (m : Memory) (x : Buffer) : (s.setBuffer m x).readData = s.readData := by cases x <;> rfl
@[simp] theorem setBuffer_freeCount (s : State) (m : Memory) (x : Buffer) : (s.setBuffer m x).freeCount = s.freeCount := by cases x <;> rfl

/-- An operand register reads as written, and the other four are untouched. -/
@[simp] theorem operand_setOperand (s : State) (v : Nat) (x y : Operand) :
    (s.setOperand v x).operand y = if y = x then v else s.operand y := by cases x <;> cases y <;> rfl

@[simp] theorem buffer_setOperand (s : State) (v : Nat) (x : Operand) (y : Buffer) :
    (s.setOperand v x).buffer y = s.buffer y := by cases x <;> cases y <;> rfl

/-- A buffer reads as replaced, and the other is untouched. -/
@[simp] theorem buffer_setBuffer (s : State) (m : Memory) (x y : Buffer) :
    (s.setBuffer m x).buffer y = if y = x then m else s.buffer y := by cases x <;> cases y <;> rfl

@[simp] theorem operand_setBuffer (s : State) (m : Memory) (x : Buffer) (y : Operand) :
    (s.setBuffer m x).operand y = s.operand y := by cases x <;> cases y <;> rfl

theorem setOperand_setOperand (s : State) (v w : Nat) (x : Operand) :
    (s.setOperand v x).setOperand w x = s.setOperand w x := by cases x <;> rfl

theorem setBuffer_setBuffer (s : State) (m m' : Memory) (x : Buffer) :
    (s.setBuffer m x).setBuffer m' x = s.setBuffer m' x := by cases x <;> rfl

theorem setOperand_turns_comm (s : State) (ts : List Turn) (v : Nat) (x : Operand) :
    ({ s with turns := ts } : State).setOperand v x = { s.setOperand v x with turns := ts } := by cases x <;> rfl

theorem setBuffer_turns_comm (s : State) (ts : List Turn) (m : Memory) (x : Buffer) :
    ({ s with turns := ts } : State).setBuffer m x = { s.setBuffer m x with turns := ts } := by cases x <;> rfl

end Sys2Proof.Machine
end

