-- ==== Sys2Proof/Laws/Protocol.lean ====
section
/-! SUPPORT. What the shared operations can do, once each: a drawing command's end, a host access, the block's move and
the step. -/

namespace Sys2Proof.Machine

/-- A drawing command completes with its effect, fails, or requests a byte. -/
theorem settle_cases {α : Type} (d : Draw α) (effect : α → State) (s : State) :
    (∃ v rest, d = .done v rest ∧ settle d effect s = .next (complete (effect v))) ∨
    (d = .unavailable ∧ settle d effect s = .next (raise .secureRandomUnavailable s)) ∨
    (d = .wait ∧ settle d effect s = .next (requestByte s)) := by
  cases d with
  | done v rest => exact .inl ⟨v, rest, rfl, rfl⟩
  | unavailable => exact .inr (.inl ⟨rfl, rfl⟩)
  | wait => exact .inr (.inr ⟨rfl, rfl⟩)

/-- An access is refused unless it is an aligned word access inside the register space (R44). -/
theorem accessRefusal_none_iff (addr n : Nat) :
    accessRefusal addr n = none ↔ n = 4 ∧ addr % 4 = 0 ∧ addr < 0x1000 := by
  unfold accessRefusal
  split
  · simp_all
  · split
    · simp_all
    · split <;> simp_all

/-- What a read that is performed does. -/
theorem hostRead_next {addr n : Nat} {s t : State} (h : hostRead addr n s = .next t) :
    (n = 4 ∧ addr % 4 = 0 ∧ addr < 0x1000) ∧ t = readAt (locate s.cfg addr) s := by
  unfold hostRead at h
  split at h
  · cases h
  · cases h
    exact ⟨(accessRefusal_none_iff _ _).mp ‹_›, rfl⟩

/-- What a write that is performed does. -/
theorem hostWrite_next {addr n : Nat} {v : Word} {s t : State} (h : hostWrite addr n v s = .next t) :
    (n = 4 ∧ addr % 4 = 0 ∧ addr < 0x1000) ∧ t = writeAt (locate s.cfg addr) v s := by
  unfold hostWrite at h
  split at h
  · cases h
  · cases h
    exact ⟨(accessRefusal_none_iff _ _).mp ‹_›, rfl⟩

theorem hostRead_legal {addr : Nat} (h : addr % 4 = 0 ∧ addr < 0x1000) (s : State) :
    hostRead addr 4 s = .next (readAt (locate s.cfg addr) s) := by
  simp [hostRead, (accessRefusal_none_iff addr 4).mpr ⟨rfl, h⟩]

theorem hostWrite_legal {addr : Nat} (h : addr % 4 = 0 ∧ addr < 0x1000) (v : Word) (s : State) :
    hostWrite addr 4 v s = .next (writeAt (locate s.cfg addr) v s) := by
  simp [hostWrite, (accessRefusal_none_iff addr 4).mpr ⟨rfl, h⟩]

/-- The three ways a write ends. -/
theorem writeAt_cases (l : Loc) (v : Word) (s : State) :
    (s.rst = true ∧ writeAt l v s = s) ∨
    (s.rst = false ∧ s.STATUS.BUSY = true ∧
      writeAt l v s = { s with STATUS := { s.STATUS with WRBUSY := true } }) ∨
    (s.rst = false ∧ s.STATUS.BUSY = false ∧ writeAt l v s = s.writeLoc v l) := by
  unfold writeAt
  cases s.rst <;> cases s.STATUS.BUSY <;> simp

/-- What an idle write leaves alone, wherever it goes: the width, the counters of the model and the reset input. -/
theorem writeLoc_frame (l : Loc) (v : Word) (s : State) :
    (s.writeLoc v l).cfg = s.cfg ∧ (s.writeLoc v l).rst = s.rst ∧ (s.writeLoc v l).turns = s.turns ∧
    (s.writeLoc v l).readData = s.readData ∧ (s.writeLoc v l).freeCount = s.freeCount := by
  cases l with
  | csr c => cases c <;> exact ⟨rfl, rfl, rfl, rfl, rfl⟩
  | operand x j => simp [State.writeLoc]
  | buffer x j => simp [State.writeLoc]
  | unmapped => exact ⟨rfl, rfl, rfl, rfl, rfl⟩

/-- An idle write does not look at the turns. -/
theorem writeLoc_turns_comm (l : Loc) (v : Word) (s : State) (ts : List Turn) :
    ({ s with turns := ts } : State).writeLoc v l = { s.writeLoc v l with turns := ts } := by
  cases l with
  | csr c => cases c <;> rfl
  | operand x j => exact setOperand_turns_comm s ts _ x
  | buffer x j => exact setBuffer_turns_comm s ts _ x
  | unmapped => rfl

/-- A control and status register is named only by its offset below 0x200 (R20). -/
theorem locate_csr {c : Config} {addr : Nat} {r : Csr} (h : locate c addr = .csr r) :
    addr < 0x200 ∧ csrAt (addr / 4) = .csr r := by
  unfold locate at h
  split at h
  · exact ⟨‹_›, h⟩
  · split at h
    · unfold windowAt at h
      split at h <;> cases h
    · cases h

/-- FBCNT stands at word 8, offset 0x020, and nowhere else (R20). -/
theorem csrAt_fbcnt {i : Nat} (h : csrAt i = .csr .fbcnt) : i = 8 := by
  unfold csrAt at h
  split at h <;> first | rfl | cases h

/-- An idle write changes FBCNT only where it goes to FBCNT. -/
theorem writeLoc_FBCNT {l : Loc} (v : Word) (s : State) (hl : l ≠ .csr .fbcnt) : (s.writeLoc v l).FBCNT = s.FBCNT := by
  cases l with
  | csr c => cases c <;> first | exact absurd rfl hl | rfl
  | operand x j => simp [State.writeLoc]
  | buffer x j => simp [State.writeLoc]
  | unmapped => rfl

/-- The three moves of the block: an idle or held block does nothing; a running one executes the latched command, or
completes an illegal word. -/
theorem blockStep_cases (s : State) :
    (running s = false ∧ blockStep s = .next s) ∨
    (∃ i, running s = true ∧ decode s.CMD = .command i ∧ blockStep s = exec i s) ∨
    (∃ r, running s = true ∧ decode s.CMD = .illegal r ∧ blockStep s = .next (raise .badCommand s)) := by
  unfold blockStep fetchWord
  cases hr : running s with
  | false => exact .inl ⟨rfl, rfl⟩
  | true =>
    cases hd : decode s.CMD with
    | command i => exact .inr (.inl ⟨i, rfl, rfl, rfl⟩)
    | illegal r => exact .inr (.inr ⟨r, rfl, rfl, rfl⟩)

theorem step_nil {s : State} (h : s.turns = []) : step s = blockStep s := by simp [step, h]

theorem step_cons {s : State} {x : Turn} {rest : List Turn} (h : s.turns = x :: rest) :
    step s = takeTurn x { s with turns := rest } := by simp [step, h]

/-- What the state that withFetchWord makes does next: it runs the word placed. -/
theorem step_withFetchWord (s : State) (nbits w : Nat) (i : Instr) (h : decode (wordOfTable nbits w) = .command i) :
    step (s.withFetchWord nbits w) =
      exec i { startCommand (wordOfTable nbits w) s with rst := false, turns := s.turns } := by
  rw [step_cons (x := .block) (rest := s.turns) rfl]
  simp [takeTurn, blockStep, running, fetchWord, State.withFetchWord, placeCommand, h]

end Sys2Proof.Machine
end

