-- ==== Sys2Proof/Tests/Slice0.lean ====
section
/-! SUPPORT. The model's own tests: ill-formed terms, words written out bit by bit from R59 and R60, at most two small tests
per command with values from spec/95_test_vectors.md (the vector's name stands in each comment), and for every statement
with hypotheses a witness that meets them. -/

namespace Sys2Proof.Tests

open Sys2Proof.Machine

/-! ### Helpers -/

/-- The reset state of the smallest legal block. -/
def small : State := { State.reset with cfg := { maxbits := 128 } }

/-- The state in which command i has just started and has received these answers. -/
def started (i : Instr) (ans : List RngAnswer) (s : State) : State := { startCommand (encode i) s with drawn := ans }

/-- The answers that are these bytes. -/
def bytes (l : List Nat) : List RngAnswer := l.map fun v => .ok (BitVec.ofNat 8 v)

/-- A buffer with these bytes from index 0 on. -/
def mem (l : List Nat) : Memory := Memory.writeBytes [] 0 (l.map (BitVec.ofNat 8))

/-- A view of the next state, if there is one. -/
def view {α : Type} (r : Result) (f : State → α) : Option α :=
  match r with
  | .next t => some (f t)
  | _ => none

/-- The view after one step of a running command: a value, STATUS and RC as the host reads them. -/
def ends {α : Type} (i : Instr) (ans : List RngAnswer) (s : State) (f : State → α) : Option (α × Word × Word) :=
  view (step (started i ans s)) fun t => (f t, t.STATUS.word, t.RC.word)

/-- The first n bytes of a buffer as numbers. -/
def first (n : Nat) (m : Memory) : List Nat := (Memory.readBytes m 0 n).map BitVec.toNat

/-! ### WellFormed: ill-formed terms are refused (R8, R44, R62) -/

theorem test_width_multiple : Config.legal { maxbits := 144 } = false := by decide
theorem test_width_too_small : Config.legal { maxbits := 96 } = false := by decide
theorem test_width_too_large : Config.legal { maxbits := 4128 } = false := by decide
theorem test_width_bounds : Config.legal { maxbits := 128 } = true ∧ Config.legal { maxbits := 4096 } = true := by decide
theorem test_word_reserved_bits : wordLegal 0x00000103#32 = false := by decide
theorem test_word_reserved_opcode : wordLegal 0x0000000C#32 = false := by decide
theorem test_access_width : accessLegal 0x000 2 = false := by decide
theorem test_access_misaligned : accessLegal 0x002 4 = false := by decide
theorem test_access_outside : accessLegal 0x1000 4 = false ∧ accessLegal 0xFFC 4 = true := by decide

/-! ### Decoding: words written out bit by bit, RSV (31:8) then OP (7:0) (R59, R60) -/

theorem test_bits_nop : decode 0b00000000000000000000000000000000#32 = .command .nop := by decide
theorem test_bits_montmul : decode 0b00000000000000000000000000000001#32 = .command .montmul := by decide
theorem test_bits_modmul : decode 0b00000000000000000000000000000010#32 = .command .modmul := by decide
theorem test_bits_modexp : decode 0b00000000000000000000000000000011#32 = .command .modexp := by decide
theorem test_bits_mrtest : decode 0b00000000000000000000000000000100#32 = .command .mrtest := by decide
theorem test_bits_pad : decode 0b00000000000000000000000000000101#32 = .command .pad := by decide
theorem test_bits_unpad : decode 0b00000000000000000000000000000110#32 = .command .unpad := by decide
theorem test_bits_randbits : decode 0b00000000000000000000000000000111#32 = .command .randbits := by decide
theorem test_bits_randrange : decode 0b00000000000000000000000000001000#32 = .command .randrange := by decide
theorem test_bits_blk2int : decode 0b00000000000000000000000000001001#32 = .command .blk2int := by decide
theorem test_bits_int2blk : decode 0b00000000000000000000000000001010#32 = .command .int2blk := by decide
theorem test_bits_clr : decode 0b00000000000000000000000000001011#32 = .command .clr := by decide

/-- R62: the reason is the field that is wrong; RSV decides before OP. -/
theorem test_bits_illegal :
    decode 0b00000000000000000000000011111111#32 = .illegal (.reservedOpcode 0xFF#8) ∧
    decode 0b10000000000000000000000000000000#32 = .illegal (.reservedBits 0x800000#24) := by decide

/-- The word placed for the host's probe is the next one run, and a whole word of the table is read. -/
theorem test_withFetchWord : decodeTableWord 32 0x0000000B = some .clr ∧ decodeTableWord 32 0x0000010B = none ∧
    view (step (State.reset.withFetchWord 32 0x0000000B)) (fun t => (t.STATUS.word, t.CMD, t.turns)) =
      some (0x02#32, 0x0000000B#32, []) := by decide

/-! ### NOP, CLR -/

/-- V-SY-3: PRIME of an earlier MRTEST is cleared. -/
theorem test_nop : ends .nop [] { small with STATUS := { small.STATUS with DONE := true, PRIME := true } }
    (fun t => t.CMD) = some (0#32, 0x02#32, 0#32) := by decide

/-- V-SY-9. -/
theorem test_clr : ends .clr [] { small with
      A := 1, B := 2, E := 3, N := 4, R := 5, BLK := mem [1], DATA := mem [0, 2], DLEN := 7#32, K := 9#32,
      BLKSIZE := 32#32, FBCNT := 2#32 }
    (fun t => ([t.A, t.B, t.E, t.N, t.R], t.BLK ++ t.DATA, [t.DLEN, t.K, t.BLKSIZE, t.FBCNT])) =
      some (([0, 0, 0, 0, 0], [], [0#32, 9#32, 32#32, 2#32]), 0x02#32, 0#32) := by decide

/-! ### Arithmetic -/

/-- V-MT-5, MAXBITS = 128. -/
theorem test_montmul : ends .montmul [] { small with A := 0xCA1, B := 0x10001, N := 0xFFFFFFFB } (fun t => t.R) =
    some (0x30C33A2E, 0x02#32, 0#32) := by decide

/-- V-MT-11: ModulusRejected is checked before EvenModulus. -/
theorem test_montmul_zero : ends .montmul [] { small with A := 7, B := 8, N := 0, R := 99 } (fun t => t.R) =
    some (99, 0x06#32, 4#32) := by decide

/-- V-MM-4: operands above the modulus. -/
theorem test_modmul : ends .modmul [] { small with A := 2 ^ 64 - 1, B := 2 ^ 64 - 1, N := 2 ^ 61 - 1 } (fun t => t.R) =
    some (49, 0x02#32, 0#32) := by decide

/-- V-MM-7. -/
theorem test_modmul_zero : ends .modmul [] { small with A := 7, B := 8, N := 0, R := 99 } (fun t => t.R) =
    some (99, 0x06#32, 4#32) := by decide

/-- V-ME-1. -/
theorem test_modexp : ends .modexp [] { small with A := 4, E := 13, N := 497 } (fun t => t.R) =
    some (445, 0x02#32, 0#32) := by decide

/-- V-ME-5: N = 1 wins over E = 0. -/
theorem test_modexp_one : ends .modexp [] { small with A := 0, E := 0, N := 1, R := 9 } (fun t => t.R) =
    some (0, 0x02#32, 0#32) := by decide

/-! ### Random numbers -/

/-- V-RB-7: the first byte is the most significant, and its top bit is forced. -/
theorem test_randbits : ends .randbits (bytes [0x12, 0x34, 0x56, 0x78, 0x9A, 0xBC, 0xDE, 0xF0])
    { small with BITLEN := 64#32 } (fun t => t.R) = some (0x923456789ABCDEF0, 0x02#32, 0#32) := by decide

/-- V-RB-10: the byte answered is discarded. -/
theorem test_randbits_unavailable : ends .randbits [.ok 0x55#8, .unavailable] { small with BITLEN := 16#32, R := 3 }
    (fun t => t.R) = some (3, 0x06#32, 1#32) := by decide

/-- V-RR-13: the full range needs NB + 1 bytes and does not wrap. -/
theorem test_randrange : ends .randrange (bytes [0x01, 0x10, 0x11, 0x12, 0x13, 0x14, 0x15, 0x16, 0x17, 0x18, 0x19, 0x1A,
      0x1B, 0x1C, 0x1D, 0x1E, 0x1F]) { small with B := 2 ^ 128 - 1 } (fun t => t.R) =
    some (0x101112131415161718191A1B1C1D1E1F, 0x02#32, 0#32) := by decide

/-- V-RR-12. -/
theorem test_randrange_empty : ends .randrange [] { small with A := 5, B := 4, R := 3 } (fun t => t.R) =
    some (3, 0x06#32, 7#32) := by decide

/-! ### Miller-Rabin -/

/-- V-MR-16: the first round passes, the second fails. -/
theorem test_mrtest_fails : ends .mrtest (bytes [0x0B, 0x00]) { small with N := 91, K := 2#32 } (fun t => t.RNDCNT) =
    some (1#32, 0x02#32, 0#32) := by decide

/-- V-MR-9, its first two rounds, K = 2: 97 - 1 = 2^5 * 3, one round passes at once and one after three squarings. -/
theorem test_mrtest_passes : ends .mrtest (bytes [0x00, 0x11]) { small with N := 97, K := 2#32 } (fun t => t.RNDCNT) =
    some (2#32, 0x0A#32, 0#32) := by decide

/-! ### Padding and conversions -/

/-- V-PD-1: the zero answers are drawn again. -/
theorem test_pad : ends .pad (bytes [0x11, 0x00, 0x22, 0x33, 0x00, 0x00, 0x44, 0x55, 0x66, 0x77, 0x88])
    { small with BLKSIZE := 16#32, DLEN := 5#32, DATA := mem [0x48, 0x65, 0x6C, 0x6C, 0x6F] } (fun t => first 16 t.BLK) =
    some ([0x00, 0x02, 0x11, 0x22, 0x33, 0x44, 0x55, 0x66, 0x77, 0x88, 0x00, 0x48, 0x65, 0x6C, 0x6C, 0x6F],
      0x02#32, 0#32) := by decide

/-- V-PD-5: one byte too long. -/
theorem test_pad_too_long : ends .pad [] { small with BLKSIZE := 16#32, DLEN := 6#32 } (fun t => t.BLK) =
    some ([], 0x06#32, 2#32) := by decide

/-- V-UP-11: the first zero is the separator, later zeros are data. -/
theorem test_unpad : ends .unpad [] { small with BLKSIZE := 8#32, BLK := mem [0, 2, 0x11, 0, 0, 0x41, 0, 0x42] }
    (fun t => (t.DLEN, first 4 t.DATA, t.FBCNT)) =
    some ((4#32, [0x00, 0x41, 0x00, 0x42], 0#32), 0x02#32, 0#32) := by decide

/-- V-UP-13: the raw block is delivered and the counter saturates. -/
theorem test_unpad_fallback : ends .unpad [] { small with
      BLKSIZE := 5#32, BLK := mem [0x01, 0x02, 0x11, 0x00, 0x41], FBCNT := 0xFFFFFFFF#32 }
    (fun t => (t.DLEN, first 5 t.DATA, t.FBCNT)) =
    some ((5#32, [0x01, 0x02, 0x11, 0x00, 0x41], 0xFFFFFFFF#32), 0x12#32, 3#32) := by decide

/-- V-BI-1. -/
theorem test_blk2int : ends .blk2int [] { small with BLKSIZE := 4#32, BLK := mem [0x12, 0x34, 0x56, 0x78] } (fun t => t.A) =
    some (0x12345678, 0x02#32, 0#32) := by decide

/-- V-BI-5: BLKSIZE = NB + 1. -/
theorem test_blk2int_too_long : ends .blk2int [] { small with BLKSIZE := 17#32, A := 3 } (fun t => t.A) =
    some (3, 0x06#32, 6#32) := by decide

/-- V-IB-6: the bytes beyond BLKSIZE keep their values. -/
theorem test_int2blk : ends .int2blk [] { small with BLKSIZE := 8#32, R := 0x0102, BLK := mem (List.replicate 10 0xAA) }
    (fun t => first 10 t.BLK) = some ([0, 0, 0, 0, 0, 0, 1, 2, 0xAA, 0xAA], 0x02#32, 0#32) := by decide

/-- V-IB-2. -/
theorem test_int2blk_too_large : ends .int2blk [] { small with BLKSIZE := 2#32, R := 0x10000 } (fun t => t.BLK) =
    some ([], 0x06#32, 8#32) := by decide

/-! ### Host access and reset -/

/-- The block word view of V-PD-1 (R45): BLK[1] = 0x66554433. -/
theorem test_block_word : view (step { small with
      BLK := mem [0x00, 0x02, 0x11, 0x22, 0x33, 0x44, 0x55, 0x66], turns := [.hostRead 0xC04 4] }) (fun t => t.readData) =
    some (some 0x66554433#32) := by decide

/-- V-RB-7, its word view (R43): R[1] = 0x92345678. -/
theorem test_operand_word : view (step { small with R := 0x923456789ABCDEF0, turns := [.hostRead 0xA04 4] })
    (fun t => t.readData) = some (some 0x92345678#32) := by decide

/-- V-SY-4: the illegal command's end. -/
theorem test_illegal_command : view (step { startCommand 0x0000000C#32 small with R := 5 })
    (fun t => (t.STATUS.word, t.RC.word, t.CMD, t.R)) = some (0x06#32, 9#32, 0x0000000C#32, 5) := by decide

/-- V-SY-8, with PRIME set as well (R22): reserved and read-only bits ignore the write. -/
theorem test_status_write : view (step { small with
      STATUS := { small.STATUS with DONE := true, ERR := true, PRIME := true }, turns := [.hostWrite 0x004 4 0xFFFFFFFF#32] })
    (fun t => t.STATUS.word) = some 0x08#32 := by decide

/-- V-SY-12: A[4] is beyond NW = 4 words. -/
theorem test_beyond_window : view (step { small with A := 7, turns := [.hostWrite 0x210 4 0xFFFFFFFF#32] }) (fun t => t.A) =
    some 7 := by decide

/-- V-SY-10, its second write: a CMD write while BUSY is dropped and recorded. -/
theorem test_write_while_busy : view (step { started .pad [] small with turns := [.hostWrite 0x000 4 0x00000000#32] })
    (fun t => (t.CMD, t.STATUS.word)) = some (0x00000005#32, 0x21#32) := by decide

/-- V-SY-19, V-SY-1: reset while a command runs. -/
theorem test_reset_while_busy : view (step { started .pad [] { small with N := 3, K := 9#32 } with turns := [.rst true] })
    (fun t => (t.STATUS.word, t.CMD, t.K, t.N)) = some (0#32, 0#32, 5#32, 0) := by decide

/-! ### Witnesses: for each statement with hypotheses, states and operands that meet them, clause by clause -/

/-- An idle block whose registers are set so that every command succeeds (RANDRANGE: A = B; MRTEST: N = 5). -/
def ready : State := { small with
  A := 3, B := 3, E := 3, N := 5, R := 7, K := 1#32, BITLEN := 1#32, BLKSIZE := 12#32, DLEN := 1#32
  BLK := mem [0, 2, 1, 1, 1, 1, 1, 1, 1, 1, 0, 9], DATA := mem [8] }

/-- The running command i with the answers it needs: eight non-zero bytes are enough for each. -/
def busy (i : Instr) : State := started i (bytes [1, 2, 3, 4, 5, 6, 7, 8]) ready

/-- IllegalWordCompletesWithBadCommand, both kinds of illegal word at their lowest and highest values. -/
theorem witness_illegal : small.STATUS.BUSY = false ∧ small.rst = false ∧
    0x0C ≤ (0x0000000C#32).toNat % 256 ∧ 0x0C ≤ (0x000000FF#32).toNat % 256 ∧
    (0x00000100#32).toNat / 256 ≠ 0 ∧ (0xFFFFFF00#32).toNat / 256 ≠ 0 := by decide

/-- StepRunsTheLatchedCommand, nobody named and the block named. -/
theorem witness_latched : (started .clr [] small).STATUS.BUSY = true ∧ (started .clr [] small).rst = false ∧
    decode (started .clr [] small).CMD = .command .clr ∧ (started .clr [] small).turns = [] ∧
    ({ started .clr [] small with turns := [.block] } : State).turns = .block :: [] := by decide

/-- CmdWriteStartsTheCommand, idle (the first command and the last) and busy. -/
theorem witness_start : small.rst = false ∧ small.STATUS.BUSY = false ∧ small.drawn = [] ∧ small.rngReq = false ∧
    0x00000000#32 = encode .nop ∧ 0x0000000B#32 = encode .clr ∧
    (busy .pad).rst = false ∧ (busy .pad).STATUS.BUSY = true := by decide

/-- ExecCompletesOrRequestsAByte: commands that draw no byte. -/
theorem witness_no_rng : ∃ i : Instr, i ≠ .mrtest ∧ i ≠ .pad ∧ i ≠ .randbits ∧ i ≠ .randrange := ⟨.clr, by decide⟩

/-- CommandsEndOnlyWithTheirCodes, CommandsWriteOnlyWhatIsListed, InterruptAtCompletion: every command has a completion
with code OK from a running state; it is no request. -/
theorem witness_completes (i : Instr) : (busy i).STATUS.BUSY = true ∧ (busy i).STATUS.ERR = false ∧
    ∃ t, exec i (busy i) = .next t ∧ t ≠ { busy i with rngReq := true } ∧ t.STATUS.BUSY = false ∧ t.RC = .ok ∧
      t.RC.fatal = false := by
  cases i <;> exact ⟨rfl, rfl, _, rfl, by decide, rfl, rfl, rfl⟩

/-- CommandsWriteOnlyWhatIsListed: a byte of BLK beyond BLKSIZE, a byte of DATA beyond DLEN. -/
theorem witness_beyond : (busy .pad).BLKSIZE.toNat ≤ 12 ∧
    (∃ t, exec .unpad (busy .unpad) = .next t ∧ t.RC.fatal = false ∧ t.DLEN.toNat ≤ 1) :=
  ⟨by decide, _, rfl, rfl, by decide⟩

/-- FatalErrorsArePrecise: a command of each family ends with a fatal code (the boundary: N = 0, BLKSIZE = NB + 1,
BITLEN = 0, A = B + 1). -/
theorem witness_fatal :
    (∃ t, exec .modmul (started .modmul [] { ready with N := 0 }) = .next t ∧
      t ≠ { started .modmul [] { ready with N := 0 } with rngReq := true } ∧ t.RC.fatal = true) ∧
    (∃ t, exec .pad (started .pad [] { ready with BLKSIZE := 17#32 }) = .next t ∧
      t ≠ { started .pad [] { ready with BLKSIZE := 17#32 } with rngReq := true } ∧ t.RC.fatal = true) ∧
    (∃ t, exec .randbits (started .randbits [] { ready with BITLEN := 0#32 }) = .next t ∧
      t ≠ { started .randbits [] { ready with BITLEN := 0#32 } with rngReq := true } ∧ t.RC.fatal = true) ∧
    (∃ t, exec .randrange (started .randrange [] { ready with A := 4 }) = .next t ∧
      t ≠ { started .randrange [] { ready with A := 4 } with rngReq := true } ∧ t.RC.fatal = true) ∧
    (∃ t, exec .mrtest (started .mrtest [.unavailable] ready) = .next t ∧
      t ≠ { started .mrtest [.unavailable] ready with rngReq := true } ∧ t.RC.fatal = true) :=
  ⟨⟨_, rfl, by decide, rfl⟩, ⟨_, rfl, by decide, rfl⟩, ⟨_, rfl, by decide, rfl⟩, ⟨_, rfl, by decide, rfl⟩,
    ⟨_, rfl, by decide, rfl⟩⟩

/-- The state of `busy` with registers changed that no command reads. -/
def busyToo (i : Instr) : State := { busy i with IEN := { IE_DONE := true, IE_ERR := true }, RNDCNT := 3#32 }

/-- CommandsReadOnlyWhatIsListed: two different running states that agree on everything R16 lists, each with a completion;
one clause per command, its own inputs among those compared. -/
theorem witness_reads (i : Instr) : busy i ≠ busyToo i ∧ (busy i).cfg = (busyToo i).cfg ∧ (busy i).drawn = (busyToo i).drawn ∧
    (busy i).A = (busyToo i).A ∧ (busy i).B = (busyToo i).B ∧ (busy i).E = (busyToo i).E ∧ (busy i).N = (busyToo i).N ∧
    (busy i).R = (busyToo i).R ∧ (busy i).FBCNT = (busyToo i).FBCNT ∧ (busy i).K = (busyToo i).K ∧ (busy i).BITLEN = (busyToo i).BITLEN ∧
    (busy i).BLKSIZE = (busyToo i).BLKSIZE ∧ (busy i).DLEN = (busyToo i).DLEN ∧
    (∀ a, Memory.read (busy i).DATA a = Memory.read (busyToo i).DATA a) ∧
    (∀ a, Memory.read (busy i).BLK a = Memory.read (busyToo i).BLK a) ∧
    (busy i).STATUS.BUSY = true ∧ (busyToo i).STATUS.BUSY = true ∧
    (∃ t, exec i (busy i) = .next t ∧ t.STATUS.BUSY = false ∧ t.RC = .ok) ∧
    (∃ t', exec i (busyToo i) = .next t') := by
  cases i <;> exact ⟨by decide, rfl, rfl, rfl, rfl, rfl, rfl, rfl, rfl, rfl, rfl, rfl, rfl, fun _ => rfl, fun _ => rfl, rfl, rfl,
    ⟨_, rfl, rfl, rfl⟩, ⟨_, rfl⟩⟩

/-- NopOnlyCompletes: an idle state. -/
theorem witness_nop : ready.STATUS.BUSY = false ∧ ready.rst = false := by decide

/-- ModmulResult, MontmulResult, ModexpResult: N = 0, the least even, the least odd, the greatest. -/
theorem witness_moduli : ({ ready with N := 0 } : State).N = 0 ∧
    (({ ready with N := 2 } : State).N ≠ 0 ∧ ({ ready with N := 2 } : State).N % 2 = 0) ∧
    ({ ready with N := 1 } : State).N % 2 = 1 ∧ ({ ready with N := 2 ^ 128 - 1 } : State).N % 2 = 1 := by decide

/-- MontgomeryProductIsTheRuleValue, MontgomeryIdentities: the least odd modulus and the greatest of 128 bits. -/
theorem witness_odd : 1 % 2 = 1 ∧ (2 ^ 128 - 1) % 2 = 1 := by decide

/-- RedcGivesTheMontgomeryProduct: n = 1 and T = 0, and n = 3 (np = (2^128 - 1) / 3) with T the greatest, RM * n - 1. -/
theorem witness_redc : (1 % 2 = 1 ∧ 2 ^ 128 - 1 < 2 ^ 128 ∧ (1 * (2 ^ 128 - 1) + 1) % 2 ^ 128 = 0 ∧ 0 * 0 < 2 ^ 128 * 1) ∧
    (3 % 2 = 1 ∧ (2 ^ 128 - 1) / 3 < 2 ^ 128 ∧ (3 * ((2 ^ 128 - 1) / 3) + 1) % 2 ^ 128 = 0 ∧
      1 * (2 ^ 128 * 3 - 1) < 2 ^ 128 * 3) := by decide

/-- SquareAndMultiplyComputesThePower: the least modulus. -/
theorem witness_power : 1 ≤ 1 ∧ 1 ≤ 2 := by decide

/-- ModexpDecryptsWhatItEncrypted: the key of V-ME-12 and V-ME-13, n = 61 * 53, and the least one, n = 2 * 3; the greatest
number below n. -/
theorem witness_rsa : ∃ t u : State,
    Nat.Prime 2 ∧ Nat.Prime 3 ∧ 2 ≠ 3 ∧ ({ ready with N := 6, E := 1, A := 5 } : State).N = 2 * 3 ∧
    1 * 1 % ((2 - 1) * (3 - 1)) = 1 % ((2 - 1) * (3 - 1)) ∧ ({ ready with N := 6, E := 1, A := 5 } : State).A < 6 ∧
    exec .modexp { ready with N := 6, E := 1, A := 5 } = .next t ∧
    exec .modexp { t with A := t.R, E := 1 } = .next u ∧
    Nat.Prime 61 ∧ Nat.Prime 53 ∧ 17 * 2753 % ((61 - 1) * (53 - 1)) = 1 % ((61 - 1) * (53 - 1)) :=
  ⟨_, _, by norm_num, by norm_num, by decide, rfl, rfl, by decide, rfl, rfl, by norm_num, by norm_num, rfl⟩

/-- RandbitsResult: BITLEN = 0 and MAXBITS + 1; BITLEN = 1 with its one byte, with none, and failing; BITLEN = MAXBITS. -/
theorem witness_randbits :
    ({ ready with BITLEN := 0#32 } : State).BITLEN.toNat = 0 ∧
    ready.cfg.maxbits < ({ ready with BITLEN := 129#32 } : State).BITLEN.toNat ∧
    (0 < (1#32).toNat ∧ (1#32).toNat ≤ ready.cfg.maxbits ∧ [0x00#8].length = ((1#32).toNat + 7) / 8 ∧
      (started .randbits [.ok 0x00#8] { ready with BITLEN := 1#32 }).drawn = [0x00#8].map .ok) ∧
    (([] : List Byte).length < ((1#32).toNat + 7) / 8 ∧ (started .randbits [] ready).drawn = ([] : List Byte).map .ok ∧
      (started .randbits [.unavailable] ready).drawn = ([] : List Byte).map .ok ++ [.unavailable]) ∧
    (0 < (128#32).toNat ∧ (128#32).toNat ≤ ready.cfg.maxbits ∧
      (List.replicate 16 0xFF#8).length = ((128#32).toNat + 7) / 8) := by decide

/-- RandomBitsBitLength: V-RB-5 and V-RB-1. -/
theorem witness_bit_length : (1 ≤ 1 ∧ randomBits 1 [.ok 0x00#8] = .done 0x80 []) ∧
    (1 ≤ 8 ∧ randomBits 8 [.ok 0x00#8] = .done 0x80 []) := by decide

/-- RandrangeResult: A = B + 1; A = B (range 1, one byte: V-RR-8); the full range (V-RR-13, bit length 129); none and a
failing byte. -/
theorem witness_randrange :
    ({ ready with A := 4 } : State).B < ({ ready with A := 4 } : State).A ∧
    (ready.A ≤ ready.B ∧ IsBitLength (ready.B - ready.A + 1) 1 ∧ [0x55#8].length = (1 + 7) / 8 ∧
      (started .randrange [.ok 0x55#8] ready).drawn = [0x55#8].map .ok) ∧
    (0 ≤ 2 ^ 128 - 1 ∧ IsBitLength (2 ^ 128 - 1 - 0 + 1) 129 ∧ (List.replicate 17 0x00#8).length = (129 + 7) / 8) ∧
    (([] : List Byte).length < (1 + 7) / 8 ∧ (started .randrange [] ready).drawn = ([] : List Byte).map .ok ∧
      (started .randrange [.unavailable] ready).drawn = ([] : List Byte).map .ok ++ [.unavailable]) :=
  ⟨by decide, ⟨by decide, .inr ⟨by decide, by decide, by decide⟩, rfl, rfl⟩,
    ⟨by decide, .inr ⟨by decide, by decide, by decide⟩, rfl⟩, ⟨by decide, rfl, rfl⟩⟩

/-- NoRequestedByteIsUnused: each of the four draws waits and ends with one more byte. -/
theorem witness_no_unused :
    (randomBits 1 [] = .wait ∧ randomBits 1 [.ok 0#8] = .done 0x80 []) ∧
    (randomInRange 2 3 [] = .wait ∧ randomInRange 2 3 [.ok 0#8] = .done 2 []) ∧
    (millerRabin 5 1 [] = .wait ∧ millerRabin 5 1 [.ok 0#8] = .done (.probablyPrime, 1) []) ∧
    (drawNonZero 1 [.ok 0#8] = .wait ∧ drawNonZero 1 [.ok 0#8, .ok 7#8] = .done [7#8] []) := by decide

/-- AnswersGoToTheOutstandingRequest: with and without a request. -/
theorem witness_answers : ({ started .pad [] ready with rngReq := true } : State).rngReq = true ∧
    (started .pad [] ready).rngReq = false := by decide

/-- MrtestResult, MrtestCornerCases: 0, 1, 2, 3, 4 (the least even one above 2), and K = 0 with the least odd N >= 5. -/
theorem witness_prechecks : (0 ≤ 3 ∧ 1 ≤ 3 ∧ 2 ≤ 3 ∧ 3 ≤ 3 ∧ 4 % 2 = 0 ∧ 4 ≤ 4) ∧
    ({ ready with K := 0#32 } : State).N % 2 = 1 ∧ 5 ≤ ({ ready with K := 0#32 } : State).N ∧
    ({ ready with K := 0#32 } : State).K = 0#32 := by decide

/-- MrtestCornerCases: N = 5, 7 with all K bytes and with fewer; N = 9 before and after its one byte. -/
theorem witness_corners : ready.N = 5 ∧ ({ ready with N := 7 } : State).N = 7 ∧
    (started .mrtest [.ok 0#8] ready).drawn = [0#8].map .ok ∧ [0#8].length = ready.K.toNat ∧
    ([] : List Byte).length < ready.K.toNat ∧
    ({ ready with N := 9 } : State).N = 9 ∧ 1 ≤ ({ ready with N := 9 } : State).K.toNat ∧
    (started .mrtest [] { ready with N := 9 }).drawn = [] ∧
    (started .mrtest [.ok 0#8] { ready with N := 9 }).drawn = [.ok 0#8] := by decide

/-- V-MR-7, its first round: 00 gives the witness 2 of 5, and the round passes by one squaring. -/
theorem witness_round_passes : RoundPasses 5 (witness 5 1 0 [0x00#8]) :=
  ⟨2, 1, rfl, rfl, .inr (.inr ⟨1, by decide, by decide, by decide, by omega⟩)⟩

/-- V-MR-20: 00 gives the witness 4 of 9, and the round fails. -/
theorem witness_round_fails : ¬ RoundPasses 9 (witness 9 1 0 [0x00#8]) := by
  have ha : witness 9 1 0 [0x00#8] = 4 := by decide
  rw [ha]
  rintro ⟨r, d, h, hd, hp⟩
  have hd8 : d ∣ 8 := ⟨2 ^ r, by rw [Nat.mul_comm]; exact h⟩
  have hle := Nat.le_of_dvd (by decide) hd8
  have hd1 : d = 1 := by interval_cases d <;> omega
  subst hd1
  have hr : r < 4 := by
    by_contra hc
    have := Nat.pow_le_pow_right (by decide : 0 < 2) (show 4 ≤ r by omega)
    omega
  interval_cases r <;> simp at h
  rcases hp with h1 | h1 | ⟨j, h1, h2, h3, -⟩
  · revert h1; decide
  · revert h1; decide
  · interval_cases j <;> revert h3 <;> decide

/-- MrtestResult: the bit lengths of N - 3 for N = 5 and N = 9; all K = 1 rounds passed; the first round failed; too few
answers; a failing answer. -/
theorem witness_rounds :
    (5 ≤ ready.N ∧ ready.N % 2 = 1 ∧ IsBitLength (ready.N - 3) 2 ∧ 1 = (2 + 7) / 8 ∧
      ready.K.toNat * 1 ≤ [0x00#8].length ∧ (started .mrtest [.ok 0x00#8] ready).drawn = [0x00#8].map .ok ∧
      ∀ j, j < ready.K.toNat → RoundPasses ready.N (witness ready.N 1 j [0x00#8])) ∧
    (5 ≤ 9 ∧ 9 % 2 = 1 ∧ IsBitLength (9 - 3) 3 ∧ 1 = (3 + 7) / 8 ∧ 0 < ready.K.toNat ∧ (0 + 1) * 1 ≤ [0x00#8].length ∧
      (∀ j, j < 0 → RoundPasses 9 (witness 9 1 j [0x00#8])) ∧ ¬ RoundPasses 9 (witness 9 1 0 [0x00#8])) ∧
    (0 < ready.K.toNat ∧ 0 * 1 ≤ ([] : List Byte).length ∧ ([] : List Byte).length < (0 + 1) * 1 ∧
      (∀ j, j < 0 → RoundPasses 5 (witness 5 1 j [])) ∧
      (started .mrtest [] ready).drawn = ([] : List Byte).map .ok ∧
      (started .mrtest [.unavailable] ready).drawn = ([] : List Byte).map .ok ++ [.unavailable]) := by
  refine ⟨⟨by decide, by decide, .inr ⟨by decide, by decide, by decide⟩, by decide, by decide, by decide, ?_⟩,
    ⟨by decide, by decide, .inr ⟨by decide, by decide, by decide⟩, by decide, by decide, by decide, by omega,
      witness_round_fails⟩, by decide, by decide, by decide, by omega, by decide, by decide⟩
  intro j hj
  have hk : ready.K.toNat = 1 := rfl
  obtain rfl : j = 0 := by omega
  exact witness_round_passes

/-- MrtestNeverRejectsAPrime: the primes 2 and 5. -/
theorem witness_prime : (Nat.Prime ({ ready with N := 2 } : State).N ∧
      ∃ t, exec .mrtest (started .mrtest [] { ready with N := 2 }) = .next t) ∧
    Nat.Prime (busy .mrtest).N ∧ ∃ t, exec .mrtest (busy .mrtest) = .next t :=
  ⟨⟨Nat.prime_two, _, rfl⟩, Nat.prime_five, _, rfl⟩

/-- PadResult: BLKSIZE = NB + 1; one byte too long (and BLKSIZE below 11); the longest chunk that fits with its eight bytes,
with seven, and failing. -/
theorem witness_pad :
    ready.cfg.nb < ({ ready with BLKSIZE := 17#32 } : State).BLKSIZE.toNat ∧
    ((12#32).toNat ≤ ready.cfg.nb ∧ (12#32).toNat < (2#32).toNat + 11) ∧
    ((10#32).toNat ≤ ready.cfg.nb ∧ (10#32).toNat < (0#32).toNat + 11) ∧
    ((busy .pad).BLKSIZE.toNat ≤ ready.cfg.nb ∧ (busy .pad).DLEN.toNat + 11 ≤ (busy .pad).BLKSIZE.toNat ∧
      (busy .pad).drawn = [1#8, 2#8, 3#8, 4#8, 5#8, 6#8, 7#8, 8#8].map .ok ∧
      (busy .pad).BLKSIZE.toNat - (busy .pad).DLEN.toNat - 3 ≤
        ([1#8, 2#8, 3#8, 4#8, 5#8, 6#8, 7#8, 8#8].filter (fun v => v != 0#8)).length) ∧
    (([1#8, 2#8, 0#8, 4#8, 5#8, 6#8, 7#8, 8#8].filter (fun v => v != 0#8)).length <
        (busy .pad).BLKSIZE.toNat - (busy .pad).DLEN.toNat - 3 ∧
      (started .pad [.ok 0#8] ready).drawn = [0#8].map .ok ∧
      (started .pad [.unavailable] ready).drawn = ([] : List Byte).map .ok ++ [.unavailable]) := by decide

/-- UnpadResult: BLKSIZE = NB + 1; BLKSIZE = 1, a wrong byte 0, a wrong byte 1, no separator; the separator first (at 2) and
last (at BLKSIZE - 1). -/
theorem witness_unpad :
    ready.cfg.nb < (17#32).toNat ∧ ((1#32).toNat ≤ ready.cfg.nb ∧ (1#32).toNat < 2) ∧
    Memory.read (mem [1, 2, 0]) 0 ≠ 0x00#8 ∧ Memory.read (mem [0, 1, 0]) 1 ≠ 0x02#8 ∧
    (∀ a, 2 ≤ a → a < 3 → Memory.read (mem [0, 2, 1]) a ≠ 0x00#8) ∧
    (Memory.read (mem [0, 2, 0, 5]) 0 = 0x00#8 ∧ Memory.read (mem [0, 2, 0, 5]) 1 = 0x02#8 ∧ 2 ≤ 2 ∧ 2 < 4 ∧
      Memory.read (mem [0, 2, 0, 5]) 2 = 0x00#8 ∧ ∀ a, 2 ≤ a → a < 2 → Memory.read (mem [0, 2, 0, 5]) a ≠ 0x00#8) ∧
    (Memory.read (mem [0, 2, 5, 0]) 0 = 0x00#8 ∧ Memory.read (mem [0, 2, 5, 0]) 1 = 0x02#8 ∧ 2 ≤ 3 ∧ 3 < 4 ∧
      Memory.read (mem [0, 2, 5, 0]) 3 = 0x00#8 ∧ ∀ a, 2 ≤ a → a < 3 → Memory.read (mem [0, 2, 5, 0]) a ≠ 0x00#8) := by
  refine ⟨by decide, by decide, by decide, by decide, ?_, ⟨by decide, by decide, by decide, by decide, by decide, ?_⟩,
    by decide, by decide, by decide, by decide, by decide, ?_⟩ <;> intro a h1 h2
  · obtain rfl : a = 2 := by omega
    decide
  · omega
  · obtain rfl : a = 2 := by omega
    decide

/-- UnpadUndoesPad: a PAD that completes, with the longest chunk its block holds. -/
theorem witness_round_trip : (busy .pad).DLEN.toNat + 11 ≤ (busy .pad).BLKSIZE.toNat ∧
    (busy .pad).BLKSIZE.toNat ≤ (busy .pad).cfg.nb ∧ (busy .pad).STATUS.BUSY = true ∧
    ∃ t, exec .pad (busy .pad) = .next t ∧ t.STATUS.BUSY = false ∧ t.RC = .ok :=
  ⟨by decide, by decide, rfl, _, rfl, rfl, rfl⟩

/-- Blk2intResult, Int2blkResult, ConversionsAreInverse: BLKSIZE = NB + 1, NB and 0; R at and just above the limit. -/
theorem witness_conversions : ready.cfg.nb < (17#32).toNat ∧ (16#32).toNat ≤ ready.cfg.nb ∧ (0#32).toNat ≤ ready.cfg.nb ∧
    256 ^ (0#32).toNat ≤ 1 ∧ 0 < 256 ^ (0#32).toNat ∧ 256 ^ (2#32).toNat ≤ 0x10000 ∧ 0xFFFF < 256 ^ (2#32).toNat := by decide

/-- OnlyAlignedWordAccessesExist: the first and last legal access, and the three illegal kinds. -/
theorem witness_accesses : (4 = 4 ∧ 0 % 4 = 0 ∧ 0 < 0x1000) ∧ (4 = 4 ∧ 0xFFC % 4 = 0 ∧ 0xFFC < 0x1000) ∧
    ¬ (2 = 4 ∧ 0 % 4 = 0 ∧ 0 < 0x1000) ∧ ¬ (4 = 4 ∧ 0xFFE % 4 = 0 ∧ 0xFFE < 0x1000) ∧
    ¬ (4 = 4 ∧ 0x1000 % 4 = 0 ∧ 0x1000 < 0x1000) := by decide

/-- ControlRegistersReadAtTheirOffsets, ControlRegistersTakeWrites, OperandWindowWords, BufferWindowWords: an idle block of
legal width, its first and last window word. -/
theorem witness_idle : ready.cfg.legal = true ∧ ready.STATUS.BUSY = false ∧ ready.rst = false ∧
    0 < ready.cfg.nw ∧ 3 < ready.cfg.nw ∧ 0 < 32 ∧ 31 < 32 ∧ 0 < 4 ∧ 3 < 4 := by decide

/-- UnmappedOffsetsReadZero: both ends of the gap, the first word beyond the window of A and the last of DATA's; idle and
busy. -/
theorem witness_unmapped : UnmappedOffset ready.cfg 0x02C ∧ UnmappedOffset ready.cfg 0x1FC ∧ UnmappedOffset ready.cfg 0x210 ∧
    UnmappedOffset ready.cfg 0xFFC ∧ 0x02C % 4 = 0 ∧ 0x1FC % 4 = 0 ∧ 0x210 % 4 = 0 ∧ 0xFFC % 4 = 0 ∧
    ready.rst = false ∧ ready.STATUS.BUSY = false ∧ (busy .pad).rst = false ∧ (busy .pad).STATUS.BUSY = true := by
  unfold UnmappedOffset
  decide

/-- AccessesWhileBusy: a running block that satisfies the invariant. -/
theorem witness_inv_busy : (busy .pad).Inv where
  width := by decide
  operands := by intro x; cases x <;> decide
  buffers := by intro x; cases x <;> decide
  busyFlags := by decide
  idleHidden := by decide
  fallbackTag := by decide
  errFatal := by decide
  primeOk := by decide
  heldInReset := by decide

/-- CommandsReadOnlyWhatIsListed, the clause of PADFB: the two running states of `witness_reads` satisfy the invariant. -/
theorem witness_inv_unpad : (busy .unpad).Inv ∧ (busyToo .unpad).Inv := by
  constructor <;> exact
    { width := by decide, operands := by intro x; cases x <;> decide, buffers := by intro x; cases x <;> decide
      busyFlags := by decide, idleHidden := by decide, fallbackTag := by decide, errFatal := by decide
      primeOk := by decide, heldInReset := by decide }

/-- AccessesWhileBusy: DLEN, RNDCNT, the first word of A and the last implemented word of DATA; a turn of another agent. -/
theorem witness_while_busy : (busy .pad).STATUS.BUSY = true ∧ (busy .pad).rst = false ∧
    (0xFFC % 4 = 0 ∧ 0xFFC < 0x1000) ∧
    (0x200 % 4 = 0 ∧ 0x200 < 0x1000 ∧ 0x200 ≤ 0x200 ∧ 0x200 % 0x200 / 4 < ready.cfg.nw) ∧
    (0xE0C % 4 = 0 ∧ 0xE0C < 0x1000 ∧ 0x200 ≤ 0xE0C ∧ 0xE0C % 0x200 / 4 < ready.cfg.nw) ∧
    ∃ t, Turn.rngStale .unavailable ≠ .block ∧ Turn.rngStale .unavailable ≠ .rst true ∧
      step { busy .pad with turns := [.rngStale .unavailable] } = .next t :=
  ⟨rfl, rfl, by decide, by decide, by decide, _, by decide, by decide, rfl⟩

/-- The idle block of the witnesses satisfies the invariant. -/
theorem witness_inv : ready.Inv where
  width := by decide
  operands := by intro x; cases x <;> decide
  buffers := by intro x; cases x <;> decide
  busyFlags := by decide
  idleHidden := by decide
  fallbackTag := by decide
  errFatal := by decide
  primeOk := by decide
  heldInReset := by decide

/-- StepKeepsInv, StepKeepsTheWidth, ReadsHaveNoEffectAndWritesRepeat: a state that satisfies the invariant with a read, and
with the same write twice at the lowest offset but CMD's; ReservedBitsReadZeroAndIgnoreWrites: the three reads. -/
theorem witness_steps : ready.Inv ∧ (∃ t, step ready = .next t) ∧
    (∃ t, step { ready with turns := [.hostRead 0x004 4] } = .next t) ∧
    (∃ t, step { ready with turns := [.hostRead 0x008 4] } = .next t) ∧
    (∃ t, step { ready with turns := [.hostRead 0x00C 4] } = .next t) ∧
    4 ≤ 0x004 ∧ ∃ t u, step { ready with turns := [.hostWrite 0x004 4 2#32, .hostWrite 0x004 4 2#32] } = .next t ∧
      step t = .next u :=
  ⟨witness_inv, ⟨_, rfl⟩, ⟨_, rfl⟩, ⟨_, rfl⟩, ⟨_, rfl⟩, by decide, _, _, rfl, rfl⟩

/-- FbcntCountsFallbacks: another command, an UNPAD that falls back and one that does not. -/
theorem witness_fbcnt : (∃ t, exec .clr (busy .clr) = .next t) ∧
    (∃ t, exec .unpad (started .unpad [] { ready with BLKSIZE := 1#32 }) = .next t ∧ t.RC = .invalidPadding) ∧
    (∃ t, exec .unpad (busy .unpad) = .next t ∧ t.RC ≠ .invalidPadding) :=
  ⟨⟨_, rfl⟩, ⟨_, rfl, rfl⟩, _, rfl, by decide⟩

/-- FbcntCountsFallbacks, over steps: from a state of the invariant, an idle host write at 0x020 changes FBCNT. -/
theorem witness_fbcnt_step : ∃ t : State, ({ ready with turns := [.hostWrite 0x020 4 7#32] } : State).Inv ∧
    step { ready with turns := [.hostWrite 0x020 4 7#32] } = .next t ∧ t.FBCNT ≠ ready.FBCNT :=
  ⟨_, { width := by decide, operands := by intro x; cases x <;> decide, buffers := by intro x; cases x <;> decide,
        busyFlags := by decide, idleHidden := by decide, fallbackTag := by decide, errFatal := by decide,
        primeOk := by decide, heldInReset := by decide }, rfl, by decide⟩

/-- IrqIsALevel, InterruptAtCompletion: DONE set and IE_DONE written; DONE cleared with IE_ERR off; the enables at a
completion, a fatal one, a successful one and a fallback. -/
theorem witness_irq : ({ ready with STATUS := { ready.STATUS with DONE := true } } : State).STATUS.DONE = true ∧
    (0x00000001#32).getLsbD 0 = true ∧ ready.IEN.IE_ERR = false ∧ (0x00000002#32).getLsbD 1 = true ∧
    (busyToo .nop).IEN.IE_DONE = true ∧
    ∃ s t : State, s.STATUS.BUSY = true ∧ s.STATUS.ERR = false ∧ s.IEN.IE_DONE = false ∧ s.IEN.IE_ERR = true ∧
      exec .unpad s = .next t ∧ t.STATUS.BUSY = false ∧ t.RC = .invalidPadding :=
  ⟨rfl, by decide, rfl, by decide, rfl,
    started .unpad [] { ready with BLKSIZE := 1#32, IEN := { IE_DONE := false, IE_ERR := true } }, _, rfl, rfl, rfl, rfl, rfl, rfl, rfl⟩

/-- WrbusyIsSticky: an idle write that clears it is `witness_idle`'s state with bit 5 of the value set; a set WRBUSY, a STATUS write that does not name it, a write while busy,
with WRBUSY still clear and already set. -/
theorem witness_wrbusy : ∃ s t u : State, s.rst = false ∧ s.STATUS.WRBUSY = true ∧ s.STATUS.BUSY = true ∧
    (0x00000020#32).getLsbD 5 = true ∧ (busy .pad).STATUS.WRBUSY = false ∧ (busy .pad).STATUS.BUSY = true ∧
    (∃ w, step { busy .pad with turns := [.hostWrite 0x010 4 7#32] } = .next w) ∧ Turn.hostWrite 0x010 4 7#32 ≠ .rst true ∧ step { s with turns := [.hostWrite 0x010 4 7#32] } = .next t ∧
    (0x00000006#32).getLsbD 5 = false ∧ step { s with turns := [.hostWrite 0x004 4 0x00000006#32] } = .next u :=
  ⟨{ busy .pad with STATUS := { (busy .pad).STATUS with WRBUSY := true } }, _, _, rfl, rfl, rfl, by decide, rfl, rfl,
    ⟨_, rfl⟩, by decide, rfl, by decide, rfl⟩

/-- ResetAbandonsEverything: a block held in reset satisfies the invariant and can move. -/
theorem witness_held : ∃ t : State, ({ small with rst := true } : State).Inv ∧ ({ small with rst := true } : State).rst = true ∧
    Turn.hostWrite 0x010 4 7#32 ≠ .rst false ∧
    step { ({ small with rst := true } : State) with turns := [.hostWrite 0x010 4 7#32] } = .next t :=
  ⟨_, { width := by decide, operands := by intro x; cases x <;> decide, buffers := by intro x; cases x <;> decide,
        busyFlags := by decide, idleHidden := by decide, fallbackTag := by decide, errFatal := by decide,
        primeOk := by decide, heldInReset := by decide }, rfl, by decide, rfl⟩

end Sys2Proof.Tests
end

/-! PROOFS. The registers of 10_state.md: the reserved bits (R32), the count of fallbacks (R29) and the reset values (R38). -/

namespace Sys2Proof.Machine

/-! ### Host accesses as steps -/

/-- A legal HostRead of the oldest turn is performed, busy or idle. -/
theorem step_hostRead_legal {addr : Nat} (h : addr % 4 = 0 ∧ addr < 0x1000) (s : State) (rest : List Turn) :
    step { s with turns := .hostRead addr 4 :: rest } = .next (readAt (locate s.cfg addr) { s with turns := rest }) := by
  rw [step_cons rfl]
  exact hostRead_legal h _

/-- A legal HostWrite of the oldest turn is performed, busy or idle. -/
theorem step_hostWrite_legal {addr : Nat} (h : addr % 4 = 0 ∧ addr < 0x1000) (v : Word) (s : State)
    (rest : List Turn) :
    step { s with turns := .hostWrite addr 4 v :: rest } =
      .next (writeAt (locate s.cfg addr) v { s with turns := rest }) := by
  rw [step_cons rfl]
  exact hostWrite_legal h v _

/-- A read of a place that R51 (c) does not leave open returns its exact value, busy or idle. -/
theorem readAt_readData {l : Loc} (h : l.openWhileBusy = false) (s : State) :
    (readAt l s).readData = some (s.readLoc l) := by
  simp [readAt, h]

/-- Two values with the same effect while idle have the same effect in every state. -/
theorem writeAt_congr {l : Loc} {v w : Word} {s : State} (h : s.writeLoc v l = s.writeLoc w l) :
    writeAt l v s = writeAt l w s := by
  simp only [writeAt, h]

/-- Two legal writes to one register that agree while idle are the same step. -/
theorem step_hostWrite_congr {addr : Nat} {l : Loc} {v w : Word} {s : State} (rest : List Turn)
    (haddr : addr % 4 = 0 ∧ addr < 0x1000) (hloc : locate s.cfg addr = l)
    (h : ∀ u : State, u.writeLoc v l = u.writeLoc w l) :
    ∃ t, step { s with turns := .hostWrite addr 4 v :: rest } = .next t ∧
      step { s with turns := .hostWrite addr 4 w :: rest } = .next t :=
  ⟨_, step_hostWrite_legal haddr v s rest, by
    rw [step_hostWrite_legal haddr, hloc, writeAt_congr (h _)]⟩

/-! ### Reserved bits -/

theorem Status.word_reserved (f : Status) {b : Nat} (h : 6 ≤ b) : f.word.getLsbD b = false := by
  obtain ⟨k, rfl⟩ := Nat.exists_eq_add_of_le' h
  change BitVec.getLsbD (w := 26 + 1 + 1 + 1 + 1 + 1 + 1) _ _ = false
  rw [Status.word]
  simp only [BitVec.getLsbD_append]
  simp

theorem ResultCode.word_reserved (c : ResultCode) {b : Nat} (h : 8 ≤ b) : c.word.getLsbD b = false := by
  change BitVec.getLsbD (w := 24 + 8) _ _ = false
  rw [ResultCode.word, BitVec.getLsbD_append]
  simp [Nat.not_lt.mpr h]

theorem Enables.word_reserved (e : Enables) {b : Nat} (h : 2 ≤ b) : e.word.getLsbD b = false := by
  obtain ⟨k, rfl⟩ := Nat.exists_eq_add_of_le' h
  change BitVec.getLsbD (w := 30 + 1 + 1) _ _ = false
  rw [Enables.word]
  simp only [BitVec.getLsbD_append]
  simp

/-- A write to STATUS looks at the value's bits 5:0 only. -/
theorem Status.writeOneToClear_mask (f : Status) (v : Word) :
    f.writeOneToClear (v &&& 0x0000003F#32) = f.writeOneToClear v := by
  simp [Status.writeOneToClear]

/-- A write to IEN looks at the value's bits 1:0 only. -/
theorem Enables.ofWord_mask (v : Word) : Enables.ofWord (v &&& 0x00000003#32) = Enables.ofWord v := by
  simp [Enables.ofWord]

/-- A bit that is 0 in the exact value of a register R51 (c) does not leave open is 0 in what a read of it returns. -/
theorem bit_of_step_hostRead {addr b : Nat} {l : Loc} {s t : State} {rest : List Turn}
    (haddr : addr % 4 = 0 ∧ addr < 0x1000) (hloc : locate s.cfg addr = l) (hopen : l.openWhileBusy = false)
    (hbit : ∀ u : State, (u.readLoc l).getLsbD b = false)
    (h : step { s with turns := .hostRead addr 4 :: rest } = .next t) :
    (t.readData.getD 0#32).getLsbD b = false := by
  rw [step_hostRead_legal haddr, hloc] at h
  cases h
  rw [readAt_readData hopen]
  exact hbit _

/-- Settles O43: the stored fields fill the low bits of the three words, and neither write looks above its mask. -/
theorem reservedBitsReadZeroAndIgnoreWrites : Obligations.ReservedBitsReadZeroAndIgnoreWrites := by
  intro s v rest
  refine ⟨fun t b h hb => ?status, fun t b h hb => ?rc, fun t b h hb => ?ien, ?writeStatus, ?writeIen⟩
  case status => exact bit_of_step_hostRead (l := .csr .status) (by decide) rfl rfl (fun u => u.STATUS.word_reserved hb) h
  case rc => exact bit_of_step_hostRead (l := .csr .rc) (by decide) rfl rfl (fun u => u.RC.word_reserved hb) h
  case ien => exact bit_of_step_hostRead (l := .csr .ien) (by decide) rfl rfl (fun u => u.IEN.word_reserved hb) h
  case writeStatus =>
    refine step_hostWrite_congr (l := .csr .status) rest (by decide) rfl fun u => ?_
    rw [State.writeLoc, State.writeLoc, Status.writeOneToClear_mask]
  case writeIen =>
    refine step_hostWrite_congr (l := .csr .ien) rest (by decide) rfl fun u => ?_
    rw [State.writeLoc, State.writeLoc, Enables.ofWord_mask]

/-! ### How a command's move ends -/

/-- What no effect of a successful command touches: the width, the command word, the enables, the parameters, the count of
fallbacks, the reset input, the model's own fields, and every STATUS bit but PRIME. -/
structure EffectFrame (s u : State) : Prop where
  cfg : u.cfg = s.cfg
  CMD : u.CMD = s.CMD
  IEN : u.IEN = s.IEN
  K : u.K = s.K
  BITLEN : u.BITLEN = s.BITLEN
  BLKSIZE : u.BLKSIZE = s.BLKSIZE
  FBCNT : u.FBCNT = s.FBCNT
  rst : u.rst = s.rst
  turns : u.turns = s.turns
  readData : u.readData = s.readData
  freeCount : u.freeCount = s.freeCount
  STATUS : { u.STATUS with PRIME := s.STATUS.PRIME } = s.STATUS

/-- The next states of a command's move, UNPAD's fallback aside: a fatal completion, the next RNG request, or a completion
with an effect inside the frame. -/
inductive CommandEnd (s : State) : State → Prop where
  | raised (c : ResultCode) (fatal : c.fatal = true) : CommandEnd s (raise c s)
  | requested : CommandEnd s (requestByte s)
  | completed (u : State) (frame : EffectFrame s u) : CommandEnd s (complete u)

theorem CommandEnd.of_settle {α : Type} {d : Draw α} {effect : α → State} {s t : State}
    (h : settle d effect s = .next t) (frame : ∀ v, EffectFrame s (effect v)) : CommandEnd s t := by
  obtain ⟨v, _, _, hs⟩ | ⟨_, hs⟩ | ⟨_, hs⟩ := settle_cases d effect s <;> rw [hs] at h <;> cases h
  · exact .completed _ (frame v)
  · exact .raised _ rfl
  · exact .requested

theorem CommandEnd.of_complete {s t u : State} (h : (.next (complete u) : Result) = .next t)
    (frame : EffectFrame s u) : CommandEnd s t := by
  cases h
  exact .completed u frame

/-- A check at a command's head: the fatal completion where it strikes, the rest of the pseudocode where it does not. -/
theorem CommandEnd.of_check {p : Prop} [Decidable p] {c : ResultCode} {r : Result} {s t : State}
    (h : (if p then .next (raise c s) else r) = .next t) (fatal : c.fatal = true)
    (rest : r = .next t → CommandEnd s t) : CommandEnd s t := by
  split at h
  · cases h
    exact .raised c fatal
  · exact rest h

/-- UNPAD fails with BadLength, delivers the raw block, or delivers the chunk; it requests no byte (R111, R112). -/
theorem execUnpad_cases (s : State) :
    exec .unpad s = .next (raise .badLength s) ∨
    exec .unpad s = .next (finish .invalidPadding (deliverRaw s)) ∨
    ∃ u, EffectFrame s u ∧ exec .unpad s = .next (complete u) := by
  simp only [exec, execUnpad]
  split
  · exact .inl rfl
  · split
    · exact .inr (.inl rfl)
    · exact .inr (.inr ⟨_, by constructor <;> rfl, rfl⟩)

/-- How the move of each command but UNPAD ends. -/
theorem exec_commandEnd {i : Instr} {s t : State} (hi : i ≠ .unpad) (h : exec i s = .next t) : CommandEnd s t := by
  cases i with
  | nop => exact .of_complete h (by constructor <;> rfl)
  | montmul => exact .of_check h rfl fun h => .of_check h rfl fun h => .of_complete h (by constructor <;> rfl)
  | modmul => exact .of_check h rfl fun h => .of_complete h (by constructor <;> rfl)
  | modexp => exact .of_check h rfl fun h => .of_complete h (by constructor <;> rfl)
  | mrtest => exact .of_settle h (fun v => by constructor <;> rfl)
  | pad => exact .of_check h rfl fun h => .of_check h rfl fun h => .of_settle h (fun v => by constructor <;> rfl)
  | unpad => exact absurd rfl hi
  | randbits => exact .of_check h rfl fun h => .of_settle h (fun v => by constructor <;> rfl)
  | randrange => exact .of_check h rfl fun h => .of_settle h (fun v => by constructor <;> rfl)
  | blk2int => exact .of_check h rfl fun h => .of_complete h (by constructor <;> rfl)
  | int2blk => exact .of_check h rfl fun h => .of_check h rfl fun h => .of_complete h (by constructor <;> rfl)
  | clr => exact .of_complete h (by constructor <;> rfl)

/-! ### The count of fallbacks -/

theorem CommandEnd.FBCNT_eq {s t : State} (h : CommandEnd s t) : t.FBCNT = s.FBCNT := by
  cases h with
  | raised c _ => rfl
  | requested => rfl
  | completed u frame => exact frame.FBCNT

theorem toNat_saturatingSucc (c : Word) : (saturatingSucc c).toNat = min (c.toNat + 1) (2 ^ 32 - 1) := by
  unfold saturatingSucc
  rw [BitVec.toNat_ofNat, Nat.mod_eq_of_lt (by omega)]

/-- UNPAD counts one fallback when it ends with InvalidPadding and none otherwise. -/
theorem execUnpad_FBCNT {s t : State} (h : exec .unpad s = .next t) :
    t.FBCNT.toNat = if t.RC = .invalidPadding then min (s.FBCNT.toNat + 1) (2 ^ 32 - 1) else s.FBCNT.toNat := by
  obtain hu | hu | ⟨u, frame, hu⟩ := execUnpad_cases s <;> rw [hu] at h <;> cases h
  · simp
  · simp [deliverRaw, toNat_saturatingSucc]
  · simp [frame.FBCNT]

@[simp] theorem readAt_FBCNT (l : Loc) (s : State) : (readAt l s).FBCNT = s.FBCNT := by
  unfold readAt
  split <;> rfl

@[simp] theorem acceptAnswer_FBCNT (a : RngAnswer) (s : State) : (acceptAnswer a s).FBCNT = s.FBCNT := by
  unfold acceptAnswer
  split <;> rfl

/-- Releasing the reset input leaves FBCNT: it is 0 already while the input is asserted. -/
theorem driveReset_false_FBCNT {s : State} (held : s.rst = true → s.FBCNT = 0#32) :
    (driveReset false s).FBCNT = s.FBCNT := by
  cases hr : s.rst with
  | false => simp [driveReset, hr]
  | true =>
    rw [held hr]
    simp [driveReset, hr, State.reset]

theorem State.Inv.FBCNT_held {s : State} (h : s.Inv) (hr : s.rst = true) : s.FBCNT = 0#32 :=
  congrArg State.FBCNT (h.heldInReset hr).symm

/-- A write that changes FBCNT goes to FBCNT, while the block is idle. -/
theorem writeAt_FBCNT_ne {l : Loc} {v : Word} {s : State} (h : (writeAt l v s).FBCNT ≠ s.FBCNT) :
    l = .csr .fbcnt ∧ s.STATUS.BUSY = false := by
  obtain ⟨_, hw⟩ | ⟨_, _, hw⟩ | ⟨_, hbusy, hw⟩ := writeAt_cases l v s <;> rw [hw] at h
  · exact absurd rfl h
  · exact absurd rfl h
  · exact ⟨by_contra fun hl => h (writeLoc_FBCNT v s hl), hbusy⟩

theorem addr_of_locate_fbcnt {c : Config} {addr : Nat} (ha : addr % 4 = 0) (h : locate c addr = .csr .fbcnt) :
    addr = 0x020 := by
  have := csrAt_fbcnt (locate_csr h).2
  omega

/-- A move of the block that changes FBCNT completes UNPAD with InvalidPadding. -/
theorem blockStep_FBCNT_ne {s t : State} (h : blockStep s = .next t) (hne : t.FBCNT ≠ s.FBCNT) :
    s.STATUS.BUSY = true ∧ decode s.CMD = .command .unpad ∧ t.STATUS.BUSY = false ∧ t.RC = .invalidPadding := by
  obtain ⟨_, hb⟩ | ⟨i, hrun, hdec, hb⟩ | ⟨_, _, _, hb⟩ := blockStep_cases s <;> rw [hb] at h
  · cases h; exact absurd rfl hne
  · have hi : i = .unpad := by_contra fun hi => hne (exec_commandEnd hi h).FBCNT_eq
    subst hi
    have hbusy : s.STATUS.BUSY = true := (Bool.and_eq_true_iff.mp hrun).1
    obtain hu | hu | ⟨u, frame, hu⟩ := execUnpad_cases s <;> rw [hu] at h <;> cases h
    · exact absurd rfl hne
    · exact ⟨hbusy, hdec, rfl, rfl⟩
    · exact absurd frame.FBCNT hne
  · cases h; exact absurd rfl hne

/-- The three steps that change FBCNT, whoever moves. -/
theorem step_FBCNT_ne {s t : State} (hinv : s.Inv) (h : step s = .next t) (hne : t.FBCNT ≠ s.FBCNT) :
    (∃ rest, s.turns = .rst true :: rest) ∨
    (∃ v rest, s.turns = .hostWrite 0x020 4 v :: rest ∧ s.STATUS.BUSY = false) ∨
    (s.STATUS.BUSY = true ∧ decode s.CMD = .command .unpad ∧ t.STATUS.BUSY = false ∧ t.RC = .invalidPadding) := by
  cases hturns : s.turns with
  | nil =>
    rw [step_nil hturns] at h
    exact .inr (.inr (blockStep_FBCNT_ne h hne))
  | cons x rest =>
    rw [step_cons hturns] at h
    cases x with
    | hostRead addr n =>
      obtain ⟨_, rfl⟩ := hostRead_next h
      exact absurd (readAt_FBCNT _ _) hne
    | hostWrite addr n v =>
      obtain ⟨⟨rfl, haddr, _⟩, rfl⟩ := hostWrite_next h
      obtain ⟨hloc, hbusy⟩ := writeAt_FBCNT_ne hne
      obtain rfl := addr_of_locate_fbcnt haddr hloc
      exact .inr (.inl ⟨v, rest, rfl, hbusy⟩)
    | rngAnswer a => cases h; exact absurd (acceptAnswer_FBCNT _ _) hne
    | rngStale a => cases h; exact absurd rfl hne
    | rst level =>
      cases level with
      | true => exact .inl ⟨rest, rfl⟩
      | false => cases h; exact absurd (driveReset_false_FBCNT (s := { s with turns := rest }) hinv.FBCNT_held) hne
    | block => exact .inr (.inr (blockStep_FBCNT_ne (s := { s with turns := rest }) h hne))

/-- Settles O44: each command ends as `exec_commandEnd` or `execUnpad_cases` says, and each mover as `step_FBCNT_ne`. -/
theorem fbcntCountsFallbacks : Obligations.FbcntCountsFallbacks := by
  refine ⟨rfl, fun s => ⟨?otherCommands, ?unpad, ?idleWrite, ?steps⟩⟩
  case otherCommands => exact fun i t hi h => (exec_commandEnd hi h).FBCNT_eq
  case unpad => exact fun t h => execUnpad_FBCNT h
  case idleWrite =>
    intro v rest hbusy hrst
    rw [step_hostWrite_legal (by decide)]
    obtain ⟨hr, _⟩ | ⟨_, hb, _⟩ | ⟨_, _, hw⟩ := writeAt_cases (locate s.cfg 0x020) v { s with turns := rest }
    · exact absurd (hr.symm.trans hrst) (by decide)
    · exact absurd (hb.symm.trans hbusy) (by decide)
    · rw [hw]; rfl
  case steps => exact fun t hinv h hne => step_FBCNT_ne hinv h hne

/-! ### Reset -/

/-- Settles O48: both buffers are empty lists, which read 0 everywhere, and the rest is State.reset's own fields. -/
theorem resetValues : Obligations.ResetValues := by
  refine ⟨rfl, rfl, rfl, rfl, rfl, Memory.read_nil, Memory.read_nil, ?_⟩
  decide

end Sys2Proof.Machine

/-! PROOFS. The memory of 20_memory.md: which accesses exist (R44), the words of the operand and buffer windows (R43, R45)
and the accesses while a command runs (R51). -/

namespace Sys2Proof.Machine

/-! ### Accesses that are no operation -/

/-- A read or write that is no aligned word access inside the register space is refused, both for one reason. -/
theorem hostAccess_illegal {addr n : Nat} (h : ¬ (n = 4 ∧ addr % 4 = 0 ∧ addr < 0x1000)) (v : Word) (s : State) :
    ∃ r, hostRead addr n s = .refused r ∧ hostWrite addr n v s = .refused r := by
  obtain ⟨r, hr⟩ := Option.ne_none_iff_exists'.mp (mt (accessRefusal_none_iff addr n).mp h)
  exact ⟨r, by rw [hostRead, hr], by rw [hostWrite, hr]⟩

/-- Settles O35: the access rules look at the width and the address only. -/
theorem onlyAlignedWordAccessesExist : Obligations.OnlyAlignedWordAccessesExist := by
  intro s addr n v rest
  refine ⟨fun hn halign hspace => ?performed, fun h => ?refused⟩
  case performed =>
    subst hn
    exact ⟨⟨_, step_hostRead_legal ⟨halign, hspace⟩ s rest⟩, ⟨_, step_hostWrite_legal ⟨halign, hspace⟩ v s rest⟩⟩
  case refused =>
    obtain ⟨r, hread, hwrite⟩ := hostAccess_illegal h v { s with turns := rest }
    exact ⟨⟨r, by rw [step_cons rfl]; exact hread⟩, ⟨r, by rw [step_cons rfl]; exact hwrite⟩⟩

/-! ### What a performed access does -/

/-- What a place holds does not depend on the turns. -/
theorem readLoc_turns (s : State) (ts : List Turn) (l : Loc) :
    ({ s with turns := ts } : State).readLoc l = s.readLoc l := by
  cases l with
  | csr c => cases c <;> rfl
  | operand x j => cases x <;> rfl
  | buffer x j => cases x <;> rfl
  | unmapped => rfl

/-- A read returns the exact value of its place, unless a command runs and R51 (c) leaves the place open. -/
theorem step_hostRead_exact {addr : Nat} {l : Loc} {s : State} (rest : List Turn) (haddr : addr % 4 = 0 ∧ addr < 0x1000)
    (hloc : locate s.cfg addr = l) (hexact : (s.STATUS.BUSY && l.openWhileBusy) = false) :
    step { s with turns := .hostRead addr 4 :: rest } =
      .next { s with turns := rest, readData := some (s.readLoc l) } := by
  rw [step_hostRead_legal haddr, hloc, readAt, if_neg (by simp [hexact]), readLoc_turns]

/-- A read of a place that R51 (c) leaves open while a command runs returns the next free value. -/
theorem step_hostRead_free {addr : Nat} {s : State} (rest : List Turn) (haddr : addr % 4 = 0 ∧ addr < 0x1000)
    (hbusy : s.STATUS.BUSY = true) (hopen : (locate s.cfg addr).openWhileBusy = true) :
    step { s with turns := .hostRead addr 4 :: rest } =
      .next { s with turns := rest, readData := some (Config.freeWord s.freeCount), freeCount := s.freeCount + 1 } := by
  rw [step_hostRead_legal haddr, readAt, if_pos (by simp [hbusy, hopen])]

/-- A write to an idle block takes effect. -/
theorem step_hostWrite_idle {addr : Nat} {l : Loc} {s : State} (v : Word) (rest : List Turn)
    (haddr : addr % 4 = 0 ∧ addr < 0x1000) (hloc : locate s.cfg addr = l) (hrst : s.rst = false)
    (hidle : s.STATUS.BUSY = false) :
    step { s with turns := .hostWrite addr 4 v :: rest } = .next (({ s with turns := rest } : State).writeLoc v l) := by
  rw [step_hostWrite_legal haddr, hloc]
  simp [writeAt, hrst, hidle]

/-- A write while a command runs is discarded and recorded in WRBUSY (R51 (a)). -/
theorem step_hostWrite_busy {addr : Nat} {s : State} (v : Word) (rest : List Turn)
    (haddr : addr % 4 = 0 ∧ addr < 0x1000) (hrst : s.rst = false) (hbusy : s.STATUS.BUSY = true) :
    step { s with turns := .hostWrite addr 4 v :: rest } =
      .next { s with turns := rest, STATUS := { s.STATUS with WRBUSY := true } } := by
  rw [step_hostWrite_legal haddr]
  simp [writeAt, hrst, hbusy]

/-! ### Where the window words stand -/

/-- A window of 0x200 bytes has room for the words of every legal width (R8, R42). -/
theorem Config.nw_le_of_legal {c : Config} (h : c.legal = true) : c.nw ≤ 128 := by
  simp only [Config.legal, Bool.and_eq_true, decide_eq_true_eq] at h
  unfold Config.nw
  omega

/-- The offset of word j of a window at a multiple of 0x200 finds that word. -/
theorem locate_windowWord {c : Config} {base j : Nat} (hlegal : c.legal = true) (hj : j < c.nw)
    (hbase : base % 0x200 = 0 ∧ 0x200 ≤ base) : locate c (base + 4 * j) = windowAt j (base / 0x200) := by
  have hnw := Config.nw_le_of_legal hlegal
  have hword : (base + 4 * j) % 0x200 / 4 = j := by omega
  have hwindow : (base + 4 * j) / 0x200 = base / 0x200 := by omega
  rw [locate, if_neg (by omega), hword, if_pos hj, hwindow]

/-- Every word of a window is an aligned word inside the register space. -/
theorem windowWord_accessible {c : Config} {base j : Nat} (hlegal : c.legal = true) (hj : j < c.nw)
    (hbase : base % 0x200 = 0 ∧ base < 0x1000) : (base + 4 * j) % 4 = 0 ∧ base + 4 * j < 0x1000 := by
  have hnw := Config.nw_le_of_legal hlegal
  omega

theorem locate_operandWord {c : Config} {j : Nat} (hlegal : c.legal = true) (hj : j < c.nw) (x : Operand) :
    locate c (x.base + 4 * j) = .operand x j := by
  cases x <;> exact locate_windowWord hlegal hj (by decide)

theorem locate_bufferWord {c : Config} {j : Nat} (hlegal : c.legal = true) (hj : j < c.nw) (x : Buffer) :
    locate c (x.base + 4 * j) = .buffer x j := by
  cases x <;> exact locate_windowWord hlegal hj (by decide)

/-! ### Operand windows -/

theorem getLsbD_operandWord (x j : Nat) {b : Nat} (hb : b < 32) :
    (operandWord x j).getLsbD b = x.testBit (32 * j + b) := by
  rw [operandWord, BitVec.getLsbD_ofNat, Nat.testBit_div_two_pow, decide_eq_true hb, Bool.true_and, Nat.add_comm]

/-- The three summands of a written operand cover disjoint ranges of bits. -/
theorem testBit_setOperandWord (x j : Nat) (v : Word) (b : Nat) :
    (setOperandWord x j v).testBit b =
      if 32 * j ≤ b ∧ b < 32 * j + 32 then v.getLsbD (b - 32 * j) else x.testBit b := by
  have hsplit : setOperandWord x j v =
      2 ^ (32 * j) * (2 ^ 32 * (x / 2 ^ (32 * j + 32)) + v.toNat) + x % 2 ^ (32 * j) := by
    rw [setOperandWord, Nat.pow_add]
    ring
  rw [hsplit, Nat.testBit_two_pow_mul_add _ (Nat.mod_lt _ (by positivity)), Nat.testBit_two_pow_mul_add _ v.isLt]
  by_cases hbelow : b < 32 * j
  · rw [if_pos hbelow, if_neg (by omega), Nat.testBit_mod_two_pow]
    simp [hbelow]
  · rw [if_neg hbelow]
    by_cases hword : b < 32 * j + 32
    · rw [if_pos (by omega), if_pos (by omega)]
      exact BitVec.testBit_toNat v
    · rw [if_neg (by omega), if_neg (by omega), Nat.testBit_div_two_pow]
      have hbit : b - 32 * j - 32 + (32 * j + 32) = b := by omega
      rw [hbit]

/-- Settles O38: the window's offset finds the word, and the word's bits are those of the register. -/
theorem operandWindowWords : Obligations.OperandWindowWords := by
  intro s x j v rest hlegal hidle hrst hj
  have haddr := windowWord_accessible hlegal hj (base := x.base) (by cases x <;> decide)
  have hloc := locate_operandWord hlegal hj x
  refine ⟨⟨operandWord (s.operand x) j, ?read, fun b hb => getLsbD_operandWord _ j hb⟩,
    ⟨setOperandWord (s.operand x) j v, ?write, testBit_setOperandWord _ j v⟩⟩
  case read => exact step_hostRead_exact rest haddr hloc (by simp [hidle])
  case write =>
    rw [step_hostWrite_idle v rest haddr hloc hrst hidle]
    cases x <;> rfl

/-! ### Buffer windows -/

/-- Byte lane b of a buffer word is the byte with index b (R45). -/
theorem extractLsb'_bufferWord (m : Memory) (j : Nat) {b : Nat} (hb : b < 4) :
    (bufferWord m j).extractLsb' (8 * b) 8 = Memory.read m (4 * j + b) := by
  unfold bufferWord
  interval_cases b
  · exact BitVec.extractLsb'_append_eq_right
  · rw [BitVec.extractLsb'_append_eq_of_le (by decide)]
    exact BitVec.extractLsb'_append_eq_right
  · rw [BitVec.extractLsb'_append_eq_of_le (by decide), BitVec.extractLsb'_append_eq_of_le (by decide)]
    exact BitVec.extractLsb'_append_eq_right
  · rw [BitVec.extractLsb'_append_eq_of_le (by decide), BitVec.extractLsb'_append_eq_of_le (by decide)]
    exact BitVec.extractLsb'_append_eq_left

theorem getD_wordBytes (v : Word) {i : Nat} (hi : i < 4) : (wordBytes v).getD i 0#8 = v.extractLsb' (8 * i) 8 := by
  interval_cases i <;> rfl

theorem read_setBufferWord (m : Memory) (j : Nat) (v : Word) (a : Nat) :
    Memory.read (setBufferWord m j v) a =
      if 4 * j ≤ a ∧ a < 4 * j + 4 then v.extractLsb' (8 * (a - 4 * j)) 8 else Memory.read m a := by
  rw [setBufferWord, Memory.read_writeBytes, length_wordBytes]
  split
  · exact getD_wordBytes v (by omega)
  · rfl

/-- Settles O39: the window's offset finds the word, and the word's lanes are the four bytes of the buffer. -/
theorem bufferWindowWords : Obligations.BufferWindowWords := by
  intro s x j v rest hlegal hidle hrst hj
  have haddr := windowWord_accessible hlegal hj (base := x.base) (by cases x <;> decide)
  have hloc := locate_bufferWord hlegal hj x
  refine ⟨⟨bufferWord (s.buffer x) j, ?read, fun b hb => extractLsb'_bufferWord _ j hb⟩,
    ⟨setBufferWord (s.buffer x) j v, ?write, read_setBufferWord _ j v⟩⟩
  case read => exact step_hostRead_exact rest haddr hloc (by simp [hidle])
  case write =>
    rw [step_hostWrite_idle v rest haddr hloc hrst hidle]
    cases x <;> rfl

/-! ### The words of STATUS, RC and IEN as numbers -/

/-- STATUS with each flag at the weight of its bit (R22). -/
theorem Status.word_eq_ofNat (f : Status) :
    f.word = BitVec.ofNat 32 (f.BUSY.toNat + 2 * f.DONE.toNat + 4 * f.ERR.toNat + 8 * f.PRIME.toNat +
      16 * f.PADFB.toNat + 32 * f.WRBUSY.toNat) := by
  obtain ⟨busy, done, err, prime, padfb, wrbusy⟩ := f
  revert busy done err prime padfb wrbusy
  decide

/-- IEN with each enable at the weight of its bit (R24). -/
theorem Enables.word_eq_ofNat (e : Enables) : e.word = BitVec.ofNat 32 (e.IE_DONE.toNat + 2 * e.IE_ERR.toNat) := by
  obtain ⟨done, err⟩ := e
  revert done err
  decide

theorem ResultCode.word_eq_ofNat (c : ResultCode) : c.word = BitVec.ofNat 32 c.number.toNat := by
  cases c <;> rfl

/-! ### Accesses and other turns while a command runs -/

/-- Every implemented window word may read as any value while a command runs (R51 (c)). -/
theorem openWhileBusy_of_window {c : Config} {addr : Nat} (hspace : addr < 0x1000) (hbase : 0x200 ≤ addr)
    (hword : addr % 0x200 / 4 < c.nw) : (locate c addr).openWhileBusy = true := by
  rw [locate, if_neg (by omega), if_pos hword]
  have hlow : 1 ≤ addr / 0x200 := by omega
  have hhigh : addr / 0x200 ≤ 7 := by omega
  generalize addr / 0x200 = window at hlow hhigh
  interval_cases window <;> rfl

/-- The turns of every agent but the block, an assertion of reset aside, leave a running command running (R51). -/
theorem step_keeps_running {s t : State} {x : Turn} {rest : List Turn} (hbusy : s.STATUS.BUSY = true)
    (hrst : s.rst = false) (hblock : x ≠ .block) (hassert : x ≠ .rst true)
    (h : step { s with turns := x :: rest } = .next t) : t.STATUS.BUSY = true ∧ t.CMD = s.CMD := by
  rw [step_cons rfl] at h
  cases x with
  | hostRead addr n =>
    obtain ⟨_, rfl⟩ := hostRead_next h
    unfold readAt
    split <;> exact ⟨hbusy, rfl⟩
  | hostWrite addr n v =>
    obtain ⟨_, rfl⟩ := hostWrite_next h
    obtain ⟨_, hw⟩ | ⟨_, _, hw⟩ | ⟨_, hidle, _⟩ := writeAt_cases (locate s.cfg addr) v { s with turns := rest }
    · rw [hw]; exact ⟨hbusy, rfl⟩
    · rw [hw]; exact ⟨hbusy, rfl⟩
    · exact absurd (hidle.symm.trans hbusy) (by decide)
  | rngAnswer a =>
    cases h
    unfold acceptAnswer
    split <;> exact ⟨hbusy, rfl⟩
  | rngStale a =>
    cases h
    exact ⟨hbusy, rfl⟩
  | rst level =>
    cases level with
    | true => exact absurd rfl hassert
    | false =>
      cases h
      simp [driveReset, hrst, hbusy]
  | block => exact absurd rfl hblock

/-- Settles O41: one rule per kind of access while a command runs, and `step_keeps_running` for the other movers. -/
theorem accessesWhileBusy : Obligations.AccessesWhileBusy := by
  intro s rest hbusy hrst
  have reads {addr : Nat} {l : Loc} {w : Word} (haddr : addr % 4 = 0 ∧ addr < 0x1000) (hloc : locate s.cfg addr = l)
      (hexact : l.openWhileBusy = false) (hw : s.readLoc l = w) :
      step { s with turns := .hostRead addr 4 :: rest } = .next { s with turns := rest, readData := some w } :=
    hw ▸ step_hostRead_exact rest haddr hloc (by simp [hexact])
  have hstatus := s.STATUS.word_eq_ofNat
  rw [hbusy] at hstatus
  refine ⟨fun addr v halign hspace => step_hostWrite_busy v rest ⟨halign, hspace⟩ hrst hbusy, ?exact, ?quiet, ?free,
    fun x t => step_keeps_running hbusy hrst⟩
  case exact =>
    exact ⟨reads (by decide) rfl rfl rfl, reads (l := .csr .status) (by decide) rfl rfl hstatus,
      reads (by decide) rfl rfl s.RC.word_eq_ofNat, reads (by decide) rfl rfl s.IEN.word_eq_ofNat,
      reads (by decide) rfl rfl rfl, reads (by decide) rfl rfl rfl, reads (by decide) rfl rfl rfl,
      reads (by decide) rfl rfl rfl, reads (by decide) rfl rfl rfl⟩
  case quiet =>
    intro hinv
    obtain ⟨hdone, _, _, _, hrc⟩ := hinv.busyFlags hbusy
    exact ⟨hdone, by rw [hrc]; rfl⟩
  case free =>
    intro addr halign hspace hopen
    refine step_hostRead_free rest ⟨halign, hspace⟩ hbusy ?_
    obtain rfl | rfl | ⟨hbase, hword⟩ := hopen
    · rfl
    · rfl
    · exact openWhileBusy_of_window hspace hbase hword

end Sys2Proof.Machine

/-! PROOFS. The encoding of 30_encoding.md: which words are commands and which are illegal (R59, R60, R62), and what an
illegal word does when it is written to CMD. -/

namespace Sys2Proof

/-! ### The two fields of a command word -/

@[simp] theorem toNat_opField (w : Word) : (opField w).toNat = w.toNat % 256 := by
  simp [opField]

theorem rsvField_eq_zero_iff (w : Word) : rsvField w = 0#24 ↔ w.toNat / 256 = 0 := by
  have hfield : (rsvField w).toNat = w.toNat / 256 := by
    simp only [rsvField, BitVec.extractLsb'_toNat, Nat.shiftRight_eq_div_pow]
    omega
  rw [← hfield, ← BitVec.toNat_inj, BitVec.toNat_zero]

/-! ### The opcodes of R60 -/

theorem opcodeOf_of_commandOfOp {op : BitVec 8} {i : Instr} (h : commandOfOp op = some i) : opcodeOf i = op := by
  unfold commandOfOp at h
  apply BitVec.eq_of_toNat_eq
  split at h <;> cases h <;> exact Eq.symm ‹op.toNat = _›

/-- The opcodes without a command are 0x0C..0xFF. -/
theorem commandOfOp_eq_none_iff (op : BitVec 8) : commandOfOp op = none ↔ 0x0C ≤ op.toNat := by
  unfold commandOfOp
  generalize op.toNat = n
  obtain h | h := Nat.lt_or_ge n 0x0C
  · interval_cases n <;> simp
  · obtain ⟨k, rfl⟩ := Nat.exists_eq_add_of_le' h
    simp

theorem toNat_encode (i : Instr) : (encode i).toNat = (opcodeOf i).toNat := by
  cases i <;> rfl

/-! ### What the decoder answers -/

theorem eq_encode_of_decode {w : Word} {i : Instr} (h : decode w = .command i) : w = encode i := by
  unfold decode at h
  split at h
  · next hrsv =>
    split at h
    · next hop =>
      cases h
      apply BitVec.eq_of_toNat_eq
      rw [toNat_encode, opcodeOf_of_commandOfOp hop, toNat_opField]
      have := (rsvField_eq_zero_iff w).mp hrsv
      omega
    · cases h
  · cases h

/-- The illegal words are those with a reserved opcode or non-zero reserved bits (R62). -/
theorem decode_illegal_iff (w : Word) :
    (∃ r, decode w = .illegal r) ↔ 0x0C ≤ w.toNat % 256 ∨ w.toNat / 256 ≠ 0 := by
  rw [← toNat_opField, ← commandOfOp_eq_none_iff, ne_eq, ← rsvField_eq_zero_iff]
  unfold decode
  by_cases hrsv : rsvField w = 0#24
  · cases commandOfOp (opField w) <;> simp [hrsv]
  · simp [hrsv]

end Sys2Proof

namespace Sys2Proof.Machine

/-! ### An illegal word as a command -/

/-- Whatever word is written to CMD of an idle block, it is stored and a command starts (R119). -/
theorem step_cmdWrite_idle {s : State} (w : Word) (rest : List Turn) (hrst : s.rst = false)
    (hidle : s.STATUS.BUSY = false) :
    step { s with turns := .hostWrite 0x000 4 w :: rest } = .next (startCommand w { s with turns := rest }) :=
  step_hostWrite_idle (l := .csr .cmd) w rest (by decide) rfl hrst hidle

/-- A running block with an illegal word latched completes with BadCommand. -/
theorem blockStep_illegal {s : State} {r : DecodeReject} (hrun : running s = true) (hdec : decode s.CMD = .illegal r) :
    blockStep s = .next (raise .badCommand s) := by
  simp [blockStep, fetchWord, execIllegal, hrun, hdec]

/-- Settles O3: `decode_illegal_iff` says which words are illegal; such a word starts as any write to CMD does, and
`blockStep_illegal` is its completion. -/
theorem illegalWordCompletesWithBadCommand : Obligations.IllegalWordCompletesWithBadCommand := by
  refine ⟨fun w => ?words, fun s w rest hidle hrst hw => ?run⟩
  case words =>
    cases hdec : decode w with
    | command i => exact .inl ⟨i, eq_encode_of_decode hdec, rfl⟩
    | illegal r => exact .inr ⟨(decode_illegal_iff w).mp ⟨r, hdec⟩, r, rfl⟩
  case run =>
    obtain ⟨r, hdec⟩ := (decode_illegal_iff w).mpr hw
    refine ⟨⟨r, hdec⟩, _, step_cmdWrite_idle w (.block :: rest) hrst hidle, ?_⟩
    rw [step_cons (x := .block) (rest := rest) rfl]
    exact blockStep_illegal (by simp [running, hrst]) hdec

end Sys2Proof.Machine

/-! PROOFS. The random numbers of 40_random.md: the value of a draw (R74), what the two drawing functions answer on
answers of a given shape (R73, R76), and the commands RANDBITS (R78) and RANDRANGE (R79). -/

namespace Sys2Proof.Machine

/-! ### The value of a draw -/

/-- be2int as the sum of R11. -/
theorem be2int_eq_sum (bs : List Byte) :
    be2int bs = ∑ i ∈ Finset.range bs.length, (bs.getD i 0#8).toNat * 256 ^ (bs.length - 1 - i) := by
  induction bs with
  | nil => rfl
  | cons v vs ih =>
    rw [be2int_cons, ih, List.length_cons, Finset.sum_range_succ', Nat.add_comm]
    simp [Nat.sub_sub, Nat.add_comm 1]

@[simp] theorem length_forceTopBit (bytes : List Byte) : (forceTopBit bytes).length = bytes.length := by
  cases bytes <;> rfl

/-- Forcing the top bit changes byte 0 and no other. -/
theorem getD_forceTopBit {bytes : List Byte} {i : Nat} (hi : i < bytes.length) :
    (forceTopBit bytes).getD i 0#8 = if i = 0 then bytes.getD i 0#8 ||| 0x80#8 else bytes.getD i 0#8 := by
  cases bytes with
  | nil => exact absurd hi (Nat.not_lt_zero i)
  | cons v vs => cases i <;> rfl

theorem be2int_forceTopBit (bytes : List Byte) : be2int (forceTopBit bytes) = drawnValue bytes := by
  rw [be2int_eq_sum, length_forceTopBit, drawnValue]
  refine Finset.sum_congr rfl fun i hi => ?_
  rw [getD_forceTopBit (Finset.mem_range.mp hi)]

/-! ### randomBits -/

section
variable {len : Nat} {bytes : List Byte} {ans rest : List RngAnswer}

theorem randomBits_enough (hlength : bytes.length = (len + 7) / 8) (hans : ans = bytes.map .ok ++ rest) :
    randomBits len ans = .done (drawnValue bytes) rest := by
  have hdraw : drawBytes (ceilDiv len 8) ans = .done bytes rest := by
    rw [hans, show ceilDiv len 8 = bytes.length from hlength.symm]
    exact drawBytes_enough bytes rest
  rw [randomBits, hdraw, Draw.andThen_done, be2int_forceTopBit]

theorem randomBits_short (hlength : bytes.length < (len + 7) / 8) (hans : ans = bytes.map .ok) :
    randomBits len ans = .wait := by
  rw [randomBits, hans, drawBytes_short bytes (ceilDiv len 8) hlength, Draw.andThen_wait]

theorem randomBits_fails (hlength : bytes.length < (len + 7) / 8) (hans : ans = bytes.map .ok ++ .unavailable :: rest) :
    randomBits len ans = .unavailable := by
  rw [randomBits, hans, drawBytes_fails bytes (ceilDiv len 8) rest hlength, Draw.andThen_unavailable]

/-! ### randomInRange -/

theorem bitlen_of_isBitLength {x : Nat} (h : IsBitLength x len) : bitlen x = len := by
  obtain ⟨rfl, rfl⟩ | ⟨hle, hlt, hpos⟩ := h
  · rfl
  · exact (bitlen_unique x len hle hlt hpos).symm

/-- The one draw of randomInRange, with the bit length of the range given by R10. -/
theorem randomInRange_eq {lo hi : Nat} (hlen : IsBitLength (hi - lo + 1) len) :
    randomInRange lo hi ans =
      (randomBits len ans).andThen fun v rest => .done (lo + v % (hi - lo + 1)) rest := by
  rw [randomInRange, bitlen_of_isBitLength hlen]

/-- The range is lo..hi: the draw needs no retry (R77). -/
theorem add_mod_range_le {lo hi : Nat} (h : lo ≤ hi) (v : Nat) : lo + v % (hi - lo + 1) ≤ hi := by
  have : v % (hi - lo + 1) < hi - lo + 1 := Nat.mod_lt v (Nat.succ_pos _)
  omega

end

/-! ### The two commands after their checks -/

theorem exec_randbits_of_legal {s : State} (hpos : 0 < s.BITLEN.toNat) (hle : s.BITLEN.toNat ≤ s.cfg.maxbits) :
    exec .randbits s = settle (randomBits s.BITLEN.toNat s.drawn) (fun v => { s with R := v }) s :=
  if_neg (by omega)

theorem exec_randrange_of_legal {s : State} (hle : s.A ≤ s.B) :
    exec .randrange s = settle (randomInRange s.A s.B s.drawn) (fun v => { s with R := v }) s :=
  if_neg (Nat.not_lt.mpr hle)

/-- Settles O21: after the check, the command ends as `randomBits` answers. -/
theorem randbitsResult : Obligations.RandbitsResult := by
  refine ⟨by decide, fun s => ⟨fun hbad => if_pos hbad, fun hpos hle bytes => ?legal⟩⟩
  rw [exec_randbits_of_legal hpos hle]
  refine ⟨fun hlength hdrawn => ?enough, fun hlength hdrawn => ?short, fun hlength hdrawn => ?fails⟩
  case enough => rw [randomBits_enough hlength (hdrawn.trans (List.append_nil _).symm)]; rfl
  case short => rw [randomBits_short hlength hdrawn]; rfl
  case fails => rw [randomBits_fails hlength hdrawn]; rfl

/-- Settles O23: after the check, the command ends as the one draw of `randomInRange` answers, reduced into A..B. -/
theorem randrangeResult : Obligations.RandrangeResult := by
  refine ⟨by decide, fun s => ⟨fun hbad => if_pos hbad, fun hle len hlen bytes => ?legal⟩⟩
  rw [exec_randrange_of_legal hle, randomInRange_eq hlen]
  refine ⟨fun hlength hdrawn => ⟨add_mod_range_le hle _, ?enough⟩, fun hlength hdrawn => ?short,
    fun hlength hdrawn => ?fails⟩
  case enough => rw [randomBits_enough hlength (hdrawn.trans (List.append_nil _).symm)]; rfl
  case short => rw [randomBits_short hlength hdrawn]; rfl
  case fails => rw [randomBits_fails hlength hdrawn]; rfl

end Sys2Proof.Machine

/-! PROOFS. The modular arithmetic of 41_modmul.md: the value of square-and-multiply (R90), by which the model computes
the inverse of the Montgomery radix, that inverse and the Montgomery product (R82), and the commands MONTMUL (R83) and
MODMUL (R84). -/

namespace Sys2Proof.Machine

/-! ### The value of square-and-multiply -/

/-- One round of the loop: the low bit of the exponent stands apart and the base is squared. -/
theorem pow_low_bit_mul_sq_pow_half (base exp : Nat) :
    (if exp % 2 = 1 then base else 1) * (base * base) ^ (exp / 2) = base ^ exp := by
  have hlow : (if exp % 2 = 1 then base else 1) = base ^ (exp % 2) := by
    obtain h | h := Nat.mod_two_eq_zero_or_one exp <;> simp [h]
  rw [hlow, ← Nat.pow_two, ← Nat.pow_mul, ← Nat.pow_add, Nat.mod_add_div]

/-- With fuel for every bit of the exponent the loop multiplies its result by the power, reduced. -/
theorem modPowLoop_eq {n fuel result base exp : Nat} (hexp : exp < 2 ^ fuel) (hresult : result < n) :
    modPowLoop n fuel result base exp = result * base ^ exp % n := by
  induction fuel generalizing result base exp with
  | zero =>
    obtain rfl : exp = 0 := by simpa using hexp
    simp [modPowLoop, Nat.mod_eq_of_lt hresult]
  | succ fuel ih =>
    by_cases hzero : exp = 0
    · simp [modPowLoop, hzero, Nat.mod_eq_of_lt hresult]
    have hhalf : exp / 2 < 2 ^ fuel := by rw [Nat.pow_succ] at hexp; omega
    have hmultiplied : (if exp % 2 = 1 then modmul result base n else result) =
        result * (if exp % 2 = 1 then base else 1) % n := by
      split
      · rfl
      · rw [Nat.mul_one, Nat.mod_eq_of_lt hresult]
    rw [modPowLoop, if_neg hzero, hmultiplied, ih hhalf (Nat.mod_lt _ (Nat.zero_lt_of_lt hresult)), modmul]
    calc result * (if exp % 2 = 1 then base else 1) % n * (base * base % n) ^ (exp / 2) % n
        = result * (if exp % 2 = 1 then base else 1) * (base * base) ^ (exp / 2) % n :=
          (Nat.mod_modEq _ n).mul ((Nat.mod_modEq _ n).pow _)
      _ = result * base ^ exp % n := by rw [Nat.mul_assoc, pow_low_bit_mul_sq_pow_half]

/-- modPow computes the power for every modulus but 0 (R89). -/
theorem modPow_eq {n : Nat} (hn : 1 ≤ n) (a e : Nat) : modPow a e n = a ^ e % n := by
  unfold modPow
  split
  · next hone => rw [hone, Nat.mod_one]
  · rw [modPowLoop_eq (lt_two_pow_bitlen e) (by omega), Nat.one_mul, ← Nat.pow_mod]

/-! ### The inverse of the Montgomery radix -/

section
variable {n : Nat} (hodd : n % 2 = 1) (maxbits : Nat)
include hodd

theorem radixInverse_lt : radixInverse maxbits n < n := by
  have hpos : 1 ≤ n := by omega
  rw [radixInverse, modPow_eq hpos]
  exact Nat.mod_lt _ hpos

/-- (n + 1) / 2 is the inverse of 2, so its power is the inverse of the radix. -/
theorem two_pow_mul_radixInverse : 2 ^ maxbits * radixInverse maxbits n ≡ 1 [MOD n] := by
  have htwo : 2 * ((n + 1) / 2) ≡ 1 [MOD n] := by
    rw [show 2 * ((n + 1) / 2) = n + 1 by omega]
    exact Nat.add_modEq_left
  calc 2 ^ maxbits * radixInverse maxbits n
      = 2 ^ maxbits * (((n + 1) / 2) ^ maxbits % n) := by rw [radixInverse, modPow_eq (by omega)]
    _ ≡ 2 ^ maxbits * ((n + 1) / 2) ^ maxbits [MOD n] := (Nat.mod_modEq _ n).mul_left _
    _ = (2 * ((n + 1) / 2)) ^ maxbits := (Nat.mul_pow 2 _ maxbits).symm
    _ ≡ 1 ^ maxbits [MOD n] := htwo.pow maxbits
    _ = 1 := Nat.one_pow maxbits

/-- The radix is coprime to an odd modulus, so an inverse below the modulus is the only one. -/
theorem eq_radixInverse {x : Nat} (hx : x < n) (hinv : 2 ^ maxbits * x ≡ 1 [MOD n]) : x = radixInverse maxbits n := by
  have hcoprime : n.Coprime (2 ^ maxbits) := (Nat.odd_iff.mpr hodd).coprime_two_right.pow_right maxbits
  have hmod : x ≡ radixInverse maxbits n [MOD n] :=
    (hinv.trans (two_pow_mul_radixInverse hodd maxbits).symm).cancel_left_of_coprime hcoprime
  exact hmod.eq_of_lt_of_lt hx (radixInverse_lt hodd maxbits)

theorem montpro_lt (a b : Nat) : montpro maxbits a b n < n :=
  Nat.mod_lt _ (by omega)

end

/-! ### The two commands -/

theorem exec_montmul_of_odd {s : State} (hodd : s.N % 2 = 1) :
    exec .montmul s = .next (complete { s with R := montpro s.cfg.maxbits s.A s.B s.N }) :=
  (if_neg (by omega)).trans (if_neg (by omega))

/-- Settles O14: RMI is `radixInverse`, the one inverse of the radix below n, with which montpro is defined. -/
theorem montgomeryProductIsTheRuleValue : Obligations.MontgomeryProductIsTheRuleValue := by
  intro maxbits n hodd
  exact ⟨radixInverse maxbits n, radixInverse_lt hodd maxbits, two_pow_mul_radixInverse hodd maxbits,
    fun x => eq_radixInverse hodd maxbits, fun a b => ⟨rfl, montpro_lt hodd maxbits a b⟩⟩

/-- Settles O15: the two checks in order, then the Montgomery product with `radixInverse` as RMI. -/
theorem montmulResult : Obligations.MontmulResult := by
  refine ⟨by decide, fun s => ⟨fun hzero => if_pos hzero, fun hne heven => ?even, fun hodd => ?odd⟩⟩
  case even => exact (if_neg hne).trans (if_pos heven)
  case odd =>
    exact ⟨radixInverse s.cfg.maxbits s.N, radixInverse_lt hodd _, two_pow_mul_radixInverse hodd _,
      exec_montmul_of_odd hodd⟩

/-- Settles O13: the one check, then the product of R81. -/
theorem modmulResult : Obligations.ModmulResult := by
  exact ⟨by decide, fun s => ⟨fun hzero => if_pos hzero, fun hne => if_neg hne⟩⟩

end Sys2Proof.Machine

/-! PROOFS. The modular power of 42_modexp.md: the value of modPow (R89) and the command MODEXP (R91). The loop's
invariant is `modPowLoop_eq`. -/

namespace Sys2Proof.Machine

/-- Settles O18: `modPow_eq` gives the power reduced, by induction on the loop's fuel; everything is 0 modulo 1. -/
theorem squareAndMultiplyComputesThePower : Obligations.SquareAndMultiplyComputesThePower := by
  intro a e n hn
  rw [modPow_eq hn]
  split
  · next hone => rw [hone, Nat.mod_one]
  · rfl

theorem exec_modexp_of_ne_zero {s : State} (hne : s.N ≠ 0) :
    exec .modexp s = .next (complete { s with R := modPow s.A s.E s.N }) :=
  if_neg hne

/-- Settles O19: the one check, then modPow, whose value is that of `squareAndMultiplyComputesThePower`. -/
theorem modexpResult : Obligations.ModexpResult := by
  refine ⟨by decide, fun s => ⟨fun hzero => if_pos hzero, fun hne => ?power⟩⟩
  rw [exec_modexp_of_ne_zero hne, squareAndMultiplyComputesThePower s.A s.E s.N (Nat.one_le_iff_ne_zero.mpr hne)]
  rfl

end Sys2Proof.Machine

/-! PROOFS. The Miller-Rabin test of 43_millerrabin.md: the decomposition (R97), one round (R98), the rounds over the bytes
answered (R99, R101) and the command MRTEST (R96, R100). -/

namespace Sys2Proof.Machine

/-! ### The decomposition -/

/-- With fuel for every factor 2 the halving stops at the odd part. -/
theorem halveWhileEven_eq {fuel r d : Nat} (k : Nat) (hodd : d % 2 = 1) (hfuel : r ≤ fuel) :
    halveWhileEven fuel k (2 ^ r * d) = (k + r, d) := by
  induction fuel generalizing k r with
  | zero =>
    obtain rfl : r = 0 := Nat.le_zero.mp hfuel
    simp [halveWhileEven]
  | succ fuel ih =>
    cases r with
    | zero => simp [halveWhileEven, hodd]
    | succ r =>
      have hdouble : 2 ^ (r + 1) * d = 2 * (2 ^ r * d) := by rw [Nat.pow_succ', Nat.mul_assoc]
      rw [halveWhileEven, hdouble, if_pos (Nat.mul_mod_right 2 _), Nat.mul_div_cancel_left _ Nat.two_pos,
        ih (k + 1) (Nat.le_of_succ_le_succ hfuel), Nat.add_assoc, Nat.add_comm 1]

/-- `decompose` finds every pair that R97 allows, so there is only one. -/
theorem decompose_eq {m r d : Nat} (hm : m = 2 ^ r * d) (hodd : d % 2 = 1) : decompose m = (r, d) := by
  have hfuel : r ≤ bitlen m := by
    have hpow : 2 ^ r ≤ m := hm ▸ Nat.le_mul_of_pos_right _ (by omega)
    exact (Nat.pow_lt_pow_iff_right Nat.one_lt_two).mp (hpow.trans_lt (lt_two_pow_bitlen m)) |>.le
  calc decompose m = halveWhileEven (bitlen m) 0 (2 ^ r * d) := by rw [decompose, ← hm]
    _ = (r, d) := by rw [halveWhileEven_eq 0 hodd hfuel, Nat.zero_add]

/-! ### One round -/

theorem modmul_pow_self (a d n : Nat) : modmul (a ^ d % n) (a ^ d % n) n = a ^ (2 * d) % n := by
  rw [modmul, ← Nat.mul_mod, ← Nat.pow_add, Nat.two_mul]

/-- One of the first j squares of x = a^d is n - 1, and none before it is 1 (R98). -/
def SquaringPasses (n a d j : Nat) : Prop :=
  ∃ i, 1 ≤ i ∧ i ≤ j ∧ a ^ (2 ^ i * d) % n = n - 1 ∧ ∀ k, 1 ≤ k → k < i → a ^ (2 ^ k * d) % n ≠ 1

theorem not_squaringPasses_zero (n a d : Nat) : ¬ SquaringPasses n a d 0 := by
  rintro ⟨i, hi, hle, -⟩
  omega

/-- The first square passes, or it is not 1 and the squares after it pass. -/
theorem squaringPasses_succ (n a d j : Nat) :
    SquaringPasses n a d (j + 1) ↔
      a ^ (2 * d) % n = n - 1 ∨ a ^ (2 * d) % n ≠ 1 ∧ SquaringPasses n a (2 * d) j := by
  have hsucc (i : Nat) : 2 ^ (i + 1) * d = 2 ^ i * (2 * d) := by rw [Nat.pow_succ, Nat.mul_assoc]
  constructor
  · rintro ⟨i, hi, hle, hmeet, hbefore⟩
    obtain rfl | hi := hi.eq_or_lt
    · exact .inl hmeet
    · obtain ⟨i, rfl⟩ := Nat.exists_eq_add_of_le' hi.le
      refine .inr ⟨hbefore 1 le_rfl hi, i, by omega, by omega, hsucc i ▸ hmeet, fun k hk hlt => ?_⟩
      exact hsucc k ▸ hbefore (k + 1) (by omega) (by omega)
  · rintro (hmeet | ⟨hstop, i, hi, hle, hmeet, hbefore⟩)
    · exact ⟨1, le_rfl, by omega, hmeet, by omega⟩
    · refine ⟨i + 1, by omega, by omega, (hsucc i).symm ▸ hmeet, fun k hk hlt => ?_⟩
      obtain rfl | hk := hk.eq_or_lt
      · exact hstop
      · obtain ⟨k, rfl⟩ := Nat.exists_eq_add_of_le' hk.le
        exact (hsucc k).symm ▸ hbefore k (by omega) (by omega)

theorem squareUntil_eq_true_iff (n a d j : Nat) : squareUntil n j (a ^ d % n) = true ↔ SquaringPasses n a d j := by
  induction j generalizing d with
  | zero => simp [squareUntil, not_squaringPasses_zero]
  | succ j ih =>
    simp only [squareUntil, modmul_pow_self, squaringPasses_succ, ← ih]
    by_cases hmeet : a ^ (2 * d) % n = n - 1
    · simp [hmeet]
    · by_cases hstop : a ^ (2 * d) % n = 1 <;> simp [hmeet, hstop]

theorem roundPasses_eq_true_iff {n : Nat} (hn : 1 ≤ n) (r d a : Nat) :
    roundPasses n r d a = true ↔ a ^ d % n = 1 ∨ a ^ d % n = n - 1 ∨ SquaringPasses n a d (r - 1) := by
  simp only [roundPasses, modPow_eq hn, ← squareUntil_eq_true_iff, ← or_assoc]
  split <;> simp [*]

/-- The block's round passes exactly when the round of R98 does: the decomposition exists and is unique. -/
theorem roundPasses_decompose_iff {n : Nat} (hn : 2 ≤ n) (a : Nat) :
    roundPasses n (decompose (n - 1)).1 (decompose (n - 1)).2 a = true ↔ RoundPasses n a := by
  have hround := roundPasses_eq_true_iff (n := n) (by omega) (a := a)
  constructor
  · intro hpass
    obtain ⟨r, d, hodd, hm⟩ := Nat.exists_eq_two_pow_mul_odd (n := n - 1) (by omega)
    rw [decompose_eq hm (Nat.odd_iff.mp hodd), hround] at hpass
    exact ⟨r, d, hm, Nat.odd_iff.mp hodd, hpass⟩
  · rintro ⟨r, d, hm, hodd, hpass⟩
    rwa [decompose_eq hm hodd, hround]

/-! ### The rounds over the bytes answered -/

/-- Round i + j draws from what round i leaves as round j does from the start. -/
theorem witness_add (n nb i j : Nat) (bytes : List Byte) :
    witness n nb (i + j) bytes = witness n nb j (bytes.drop (nb * i)) := by
  rw [witness, witness, List.drop_drop, Nat.mul_add]

/-- Answers that end inside round p leave it fewer bytes than it draws. -/
theorem length_drop_lt_iff {α : Type} {nb p : Nat} {bytes : List α} (hlength : p * nb ≤ bytes.length) :
    (bytes.drop (nb * p)).length < nb ↔ bytes.length < (p + 1) * nb := by
  rw [List.length_drop, Nat.mul_comm nb, Nat.succ_mul]
  omega

/-- The draw of a witness, with the bit length of its range given by R10. -/
theorem witnessDraw_eq {n len : Nat} (hn : 5 ≤ n) (hlen : IsBitLength (n - 3) len) (ans : List RngAnswer) :
    randomInRange 2 (n - 2) ans = (randomBits len ans).andThen fun v rest => .done (2 + v % (n - 3)) rest := by
  have hrange : n - 2 - 2 + 1 = n - 3 := by omega
  rw [randomInRange_eq (hrange ▸ hlen), hrange]

section
variable {n len nb r d : Nat} {bytes : List Byte} (hn : 5 ≤ n) (hlen : IsBitLength (n - 3) len)
  (hnb : nb = (len + 7) / 8)
include hn hlen hnb

/-- The witness of a round is drawn from its nb bytes (R98). -/
theorem witnessDraw_enough (hlength : nb ≤ bytes.length) (tail : List RngAnswer) :
    randomInRange 2 (n - 2) (bytes.map .ok ++ tail) =
      .done (witness n nb 0 bytes) ((bytes.drop nb).map .ok ++ tail) := by
  have hchunk : (bytes.take nb).length = (len + 7) / 8 := by rw [List.length_take, Nat.min_eq_left hlength, hnb]
  have hsplit : bytes.map .ok ++ tail = (bytes.take nb).map .ok ++ ((bytes.drop nb).map .ok ++ tail) := by
    rw [← List.append_assoc, ← List.map_append, List.take_append_drop]
  rw [witnessDraw_eq hn hlen, randomBits_enough hchunk hsplit]
  rfl

/-- One round whose bytes are there: it passes and the test goes on, or it decides. -/
theorem rounds_succ (hlength : nb ≤ bytes.length) (k passed : Nat) (tail : List RngAnswer) :
    rounds n r d (k + 1) passed (bytes.map .ok ++ tail) =
      if roundPasses n r d (witness n nb 0 bytes) then rounds n r d k (passed + 1) ((bytes.drop nb).map .ok ++ tail)
      else .done (.composite, passed) ((bytes.drop nb).map .ok ++ tail) := by
  rw [rounds, witnessDraw_enough hn hlen hnb hlength, Draw.andThen_done]

theorem rounds_succ_short (hlength : bytes.length < nb) (k passed : Nat) :
    rounds n r d (k + 1) passed (bytes.map .ok ++ []) = .wait := by
  rw [rounds, witnessDraw_eq hn hlen, randomBits_short (hnb ▸ hlength) (List.append_nil _), Draw.andThen_wait,
    Draw.andThen_wait]

theorem rounds_succ_fails (hlength : bytes.length < nb) (k passed : Nat) :
    rounds n r d (k + 1) passed (bytes.map .ok ++ [.unavailable]) = .unavailable := by
  rw [rounds, witnessDraw_eq hn hlen, randomBits_fails (hnb ▸ hlength) rfl, Draw.andThen_unavailable,
    Draw.andThen_unavailable]

/-- p passing rounds take their p * nb bytes and are counted. -/
theorem rounds_add {p : Nat} (hlength : p * nb ≤ bytes.length)
    (hpass : ∀ j, j < p → roundPasses n r d (witness n nb j bytes) = true) (k passed : Nat) (tail : List RngAnswer) :
    rounds n r d (p + k) passed (bytes.map .ok ++ tail) =
      rounds n r d k (passed + p) ((bytes.drop (nb * p)).map .ok ++ tail) := by
  induction p generalizing bytes passed with
  | zero => simp
  | succ p ih =>
    rw [Nat.succ_mul] at hlength
    have hlater : ∀ j, j < p → roundPasses n r d (witness n nb j (bytes.drop nb)) = true := by
      intro j hj
      have hshift : witness n nb (1 + j) bytes = witness n nb j (bytes.drop nb) := by rw [witness_add, Nat.mul_one]
      exact hshift ▸ hpass (1 + j) (by omega)
    calc rounds n r d (p + 1 + k) passed (bytes.map .ok ++ tail)
        = rounds n r d (p + k + 1) passed (bytes.map .ok ++ tail) := by rw [Nat.add_right_comm]
      _ = rounds n r d (p + k) (passed + 1) ((bytes.drop nb).map .ok ++ tail) := by
          rw [rounds_succ hn hlen hnb (by omega), if_pos (hpass 0 p.succ_pos)]
      _ = rounds n r d k (passed + 1 + p) (((bytes.drop nb).drop (nb * p)).map .ok ++ tail) :=
          ih (by rw [List.length_drop]; omega) hlater (passed + 1)
      _ = rounds n r d k (passed + (p + 1)) ((bytes.drop (nb * (p + 1))).map .ok ++ tail) := by
          rw [List.drop_drop, Nat.mul_succ, Nat.add_comm nb, Nat.add_assoc, Nat.add_comm 1]

end

/-! ### The whole test -/

theorem millerRabin_of_precheck {n : Nat} (h : n ≤ 3 ∨ n % 2 = 0) (k : Nat) (ans : List RngAnswer) :
    millerRabin n k ans = .done (if n = 2 ∨ n = 3 then .probablyPrime else .composite, 0) ans := by
  unfold millerRabin
  split
  · rw [if_neg (by omega)]
  · split
    · rfl
    · rw [if_pos (by omega)]

section
variable {n len nb p k : Nat} {bytes : List Byte} (hn : 5 ≤ n) (hodd : n % 2 = 1) (hlen : IsBitLength (n - 3) len)
  (hnb : nb = (len + 7) / 8) (hlength : p * nb ≤ bytes.length)
  (hpass : ∀ j, j < p → RoundPasses n (witness n nb j bytes))
include hn hodd hlen hnb hlength hpass

/-- After p passing rounds the test goes on with the bytes left. -/
theorem millerRabin_after_passes (k : Nat) (tail : List RngAnswer) :
    millerRabin n (p + k) (bytes.map .ok ++ tail) =
      rounds n (decompose (n - 1)).1 (decompose (n - 1)).2 k p ((bytes.drop (nb * p)).map .ok ++ tail) := by
  have hrun : ∀ j, j < p → roundPasses n (decompose (n - 1)).1 (decompose (n - 1)).2 (witness n nb j bytes) = true :=
    fun j hj => (roundPasses_decompose_iff (by omega) _).mpr (hpass j hj)
  rw [millerRabin, if_neg (by omega), if_neg (by omega), if_neg (by omega), rounds_add hn hlen hnb hlength hrun,
    Nat.zero_add]

theorem millerRabin_all_pass :
    ∃ rest, millerRabin n p (bytes.map .ok ++ []) = .done (.probablyPrime, p) rest :=
  ⟨_, millerRabin_after_passes hn hodd hlen hnb hlength hpass 0 []⟩

theorem millerRabin_round_fails (hnext : (p + 1) * nb ≤ bytes.length) (hfail : ¬ RoundPasses n (witness n nb p bytes)) :
    ∃ rest, millerRabin n (p + (k + 1)) (bytes.map .ok ++ []) = .done (.composite, p) rest := by
  have hleft : nb ≤ (bytes.drop (nb * p)).length := by
    rwa [← Nat.not_lt, length_drop_lt_iff hlength, Nat.not_lt]
  have hround : ¬ roundPasses n (decompose (n - 1)).1 (decompose (n - 1)).2
      (witness n nb 0 (bytes.drop (nb * p))) = true := by
    rwa [← witness_add, Nat.add_zero, roundPasses_decompose_iff (by omega)]
  rw [millerRabin_after_passes hn hodd hlen hnb hlength hpass, rounds_succ hn hlen hnb hleft, if_neg hround]
  exact ⟨_, rfl⟩

theorem millerRabin_short (hshort : bytes.length < (p + 1) * nb) :
    millerRabin n (p + (k + 1)) (bytes.map .ok ++ []) = .wait := by
  rw [millerRabin_after_passes hn hodd hlen hnb hlength hpass,
    rounds_succ_short hn hlen hnb ((length_drop_lt_iff hlength).mpr hshort)]

theorem millerRabin_fails (hshort : bytes.length < (p + 1) * nb) :
    millerRabin n (p + (k + 1)) (bytes.map .ok ++ [.unavailable]) = .unavailable := by
  rw [millerRabin_after_passes hn hodd hlen hnb hlength hpass,
    rounds_succ_fails hn hlen hnb ((length_drop_lt_iff hlength).mpr hshort)]

end

/-! ### The command -/

theorem exec_mrtest (s : State) :
    exec .mrtest s = settle (millerRabin s.N s.K.toNat s.drawn) (fun v => recordVerdict v s) s := rfl

theorem exec_mrtest_of_done {s : State} {verdict : Verdict} {passed : Nat} {rest : List RngAnswer}
    (h : millerRabin s.N s.K.toNat s.drawn = .done (verdict, passed) rest) :
    exec .mrtest s = .next { s with
      RNDCNT := BitVec.ofNat 32 passed, RC := .ok, drawn := [], rngReq := false
      STATUS := { s.STATUS with BUSY := false, DONE := true, PRIME := decide (verdict = .probablyPrime) } } := by
  rw [exec_mrtest, h]
  rfl

theorem exec_mrtest_of_wait {s : State} (h : millerRabin s.N s.K.toNat s.drawn = .wait) :
    exec .mrtest s = .next (requestByte s) := by
  rw [exec_mrtest, h]
  rfl

theorem exec_mrtest_of_unavailable {s : State} (h : millerRabin s.N s.K.toNat s.drawn = .unavailable) :
    exec .mrtest s = .next (raise .secureRandomUnavailable s) := by
  rw [exec_mrtest, h]
  rfl

/-- Settles O26: the command ends as `millerRabin` answers, which is decided by the pre-checks, or after the passing rounds
by the next round's bytes and witness. -/
theorem mrtestResult : Obligations.MrtestResult := by
  refine ⟨by decide, fun s => ⟨fun hcheck => ?precheck, fun len nb bytes hn hodd hlen hnb => ⟨?all, ?fails, ?ends⟩⟩⟩
  case precheck =>
    rw [exec_mrtest_of_done (millerRabin_of_precheck hcheck _ _)]
    by_cases hprime : s.N = 2 ∨ s.N = 3 <;> simp [hprime]
  case all =>
    intro hlength hdrawn hpass
    obtain ⟨rest, htest⟩ := millerRabin_all_pass hn hodd hlen hnb hlength hpass
    rw [List.append_nil, ← hdrawn] at htest
    rw [exec_mrtest_of_done htest, BitVec.ofNat_toNat, BitVec.setWidth_eq]
    rfl
  case fails =>
    intro p hp hnext hdrawn hpass hfail
    obtain ⟨k, hk⟩ := Nat.exists_eq_add_of_lt hp
    obtain ⟨rest, htest⟩ := millerRabin_round_fails (k := k) hn hodd hlen hnb
      ((Nat.mul_le_mul_right nb p.le_succ).trans hnext) hpass hnext hfail
    rw [List.append_nil, ← hdrawn, ← Nat.add_assoc, ← hk] at htest
    exact exec_mrtest_of_done htest
  case ends =>
    intro p hp hlength hshort hpass
    obtain ⟨k, hk⟩ := Nat.exists_eq_add_of_lt hp
    refine ⟨fun hdrawn => exec_mrtest_of_wait ?_, fun hdrawn => exec_mrtest_of_unavailable ?_⟩
    · rw [hk, Nat.add_assoc, hdrawn, ← List.append_nil (bytes.map _),
        millerRabin_short hn hodd hlen hnb hlength hpass hshort]
    · rw [hk, Nat.add_assoc, hdrawn, millerRabin_fails hn hodd hlen hnb hlength hpass hshort]

end Sys2Proof.Machine

/-! PROOFS. The padding of 44_padding.md: the two conversions between byte strings and numbers (R114) and the commands
BLK2INT (R115) and INT2BLK (R116); the drawn padding string (R108), the padded block (R107) and the command PAD (R109);
the search for the separator (R110) and the command UNPAD (R111). -/

namespace Sys2Proof.Machine

/-! ### The two conversions -/

/-- Byte by byte from the top, int2be keeps what lies below 256^len. -/
theorem be2int_int2be (v len : Nat) : be2int (int2be v len) = v % 256 ^ len := by
  induction len with
  | zero => simp [int2be, Nat.mod_one]
  | succ len ih =>
    rw [int2be, be2int_cons, length_int2be, ih, Nat.mod_pow_succ (b := 256), Nat.add_comm, Nat.mul_comm]
    rfl

/-- The first byte is the quotient by its place value, and the number of the other bytes is the remainder. -/
theorem be2int_cons_div_mod (v : Byte) (vs : List Byte) :
    be2int (v :: vs) / 256 ^ vs.length = v.toNat ∧ be2int (v :: vs) % 256 ^ vs.length = be2int vs := by
  rw [be2int_cons, Nat.div_mod_unique (by positivity), Nat.add_comm, Nat.mul_comm]
  exact ⟨rfl, be2int_lt vs⟩

theorem be2int_inj {bs cs : List Byte} (hlength : bs.length = cs.length) (h : be2int bs = be2int cs) : bs = cs := by
  induction bs generalizing cs with
  | nil => exact (List.eq_nil_of_length_eq_zero hlength.symm).symm
  | cons v vs ih =>
    cases cs with
    | nil => cases hlength
    | cons w ws =>
      have htail : vs.length = ws.length := Nat.succ.inj hlength
      obtain ⟨hv, hvs⟩ := be2int_cons_div_mod v vs
      obtain ⟨hw, hws⟩ := be2int_cons_div_mod w ws
      rw [h, htail] at hv hvs
      rw [BitVec.eq_of_toNat_eq (hv.symm.trans hw), ih htail (hvs.symm.trans hws)]

/-- Settles O34: `be2int_int2be` is one direction, and with `be2int_inj` it gives the other. -/
theorem conversionsAreInverse : Obligations.ConversionsAreInverse := by
  refine ⟨fun v len hv => ⟨length_int2be v len, ?number⟩, fun bs => ⟨be2int_lt bs, ?string⟩⟩
  case number => rw [be2int_int2be, Nat.mod_eq_of_lt hv]
  case string =>
    apply be2int_inj (length_int2be _ _)
    rw [be2int_int2be, Nat.mod_eq_of_lt (be2int_lt bs)]

/-! ### Byte strings written from index 0 on -/

theorem Memory.read_writeBytes_zero (m : Memory) (vs : List Byte) (a : Nat) :
    Memory.read (Memory.writeBytes m 0 vs) a = if a < vs.length then vs.getD a 0#8 else Memory.read m a := by
  simp [Memory.read_writeBytes]

/-- Bytes copied from index b of one buffer to the start of another. -/
theorem Memory.read_writeBytes_readBytes (m m' : Memory) (b n a : Nat) :
    Memory.read (Memory.writeBytes m 0 (Memory.readBytes m' b n)) a =
      if a < n then Memory.read m' (b + a) else Memory.read m a := by
  rw [Memory.read_writeBytes_zero, Memory.length_readBytes]
  split
  · exact Memory.getD_readBytes m' b n a ‹_›
  · rfl

/-! ### BLK2INT and INT2BLK -/

theorem not_blockTooLarge {s : State} (hle : s.BLKSIZE.toNat ≤ s.cfg.nb) : ¬ blockTooLarge s = true := by
  simpa [blockTooLarge] using hle

theorem exec_blk2int_of_legal {s : State} (hle : s.BLKSIZE.toNat ≤ s.cfg.nb) :
    exec .blk2int s = .next (complete { s with A := be2int (blockBytes s) }) :=
  if_neg (not_blockTooLarge hle)

theorem exec_int2blk_of_legal {s : State} (hle : s.BLKSIZE.toNat ≤ s.cfg.nb) (hfit : s.R < 256 ^ s.BLKSIZE.toNat) :
    exec .int2blk s =
      .next (complete { s with BLK := Memory.writeBytes s.BLK 0 (int2be s.R s.BLKSIZE.toNat) }) :=
  (if_neg (not_blockTooLarge hle)).trans (if_neg (Nat.not_le.mpr hfit))

theorem be2int_blockBytes (s : State) :
    be2int (blockBytes s) = ∑ j ∈ Finset.range s.BLKSIZE.toNat,
      (Memory.read s.BLK j).toNat * 256 ^ (s.BLKSIZE.toNat - 1 - j) := by
  rw [be2int_eq_sum, blockBytes, Memory.length_readBytes]
  refine Finset.sum_congr rfl fun j hj => ?_
  rw [Memory.getD_readBytes _ _ _ _ (Finset.mem_range.mp hj), Nat.zero_add]

theorem read_writeBytes_int2be (m : Memory) (v len a : Nat) :
    Memory.read (Memory.writeBytes m 0 (int2be v len)) a =
      if a < len then BitVec.ofNat 8 (v / 256 ^ (len - 1 - a) % 256) else Memory.read m a := by
  rw [Memory.read_writeBytes_zero, length_int2be]
  split
  · rw [getD_int2be _ _ _ ‹_›]
    exact BitVec.eq_of_toNat_eq (by simp)
  · rfl

/-- Settles O32: the one check, then the big-endian sum. -/
theorem blk2intResult : Obligations.Blk2intResult := by
  refine ⟨by decide, fun s => ⟨fun hlarge => if_pos (decide_eq_true hlarge), fun hle => ?legal⟩⟩
  rw [exec_blk2int_of_legal hle, be2int_blockBytes]
  rfl

/-- Settles O33: the two checks in order, then the bytes of int2be. -/
theorem int2blkResult : Obligations.Int2blkResult := by
  refine ⟨by decide, fun s => ⟨fun hlarge => if_pos (decide_eq_true hlarge), fun hle hvalue => ?tooLarge,
    fun hle hfit => ⟨_, exec_int2blk_of_legal hle hfit, read_writeBytes_int2be _ _ _⟩⟩⟩
  exact (if_neg (not_blockTooLarge hle)).trans (if_pos hvalue)

/-! ### The padding string -/

/-- A zero byte is drawn again; another takes the next position. -/
theorem drawNonZero_succ_ok (n : Nat) (v : Byte) (ans : List RngAnswer) :
    drawNonZero (n + 1) (.ok v :: ans) =
      if v = 0#8 then drawNonZero (n + 1) ans
      else (drawNonZero n ans).andThen fun vs rest => .done (v :: vs) rest := by
  rw [drawNonZero]

@[simp] theorem drawNonZero_zero (ans : List RngAnswer) : drawNonZero 0 ans = .done [] ans := by
  cases ans <;> rfl

theorem drawNonZero_enough {n : Nat} {bytes : List Byte} (h : n ≤ (bytes.filter (fun v => v != 0#8)).length) :
    ∃ rest, drawNonZero n (bytes.map .ok) = .done ((bytes.filter (fun v => v != 0#8)).take n) rest := by
  induction bytes generalizing n with
  | nil =>
    obtain rfl : n = 0 := Nat.le_zero.mp h
    exact ⟨[], rfl⟩
  | cons v vs ih =>
    cases n with
    | zero => exact ⟨_, rfl⟩
    | succ n =>
      rw [List.map_cons, drawNonZero_succ_ok]
      by_cases hv : v = 0#8
      · simpa [hv] using ih (n := n + 1) (by simpa [hv] using h)
      · obtain ⟨rest, hdraw⟩ := ih (n := n) (by simpa [hv] using h)
        exact ⟨rest, by simp [hv, hdraw]⟩

/-- A draw of more than the non-zero bytes at hand takes them all and goes on with the answers behind. -/
theorem drawNonZero_append (bytes : List Byte) (k : Nat) (tail : List RngAnswer) :
    drawNonZero ((bytes.filter (fun v => v != 0#8)).length + k + 1) (bytes.map .ok ++ tail) =
      (drawNonZero (k + 1) tail).andThen fun vs rest => .done (bytes.filter (fun v => v != 0#8) ++ vs) rest := by
  induction bytes with
  | nil => cases h : drawNonZero (k + 1) tail <;> simp [h]
  | cons v vs ih =>
    rw [List.map_cons, List.cons_append, drawNonZero_succ_ok]
    by_cases hv : v = 0#8
    · simpa [hv] using ih
    · have hstring : (v :: vs).filter (fun v => v != 0#8) = v :: vs.filter (fun v => v != 0#8) := by simp [hv]
      rw [if_neg hv, hstring, List.length_cons, Nat.add_right_comm, ih]
      cases drawNonZero (k + 1) tail <;> rfl

section
variable {n : Nat} {bytes : List Byte} {ans rest : List RngAnswer}
  (h : (bytes.filter (fun v => v != 0#8)).length < n)
include h

theorem drawNonZero_short (hans : ans = bytes.map .ok) : drawNonZero n ans = .wait := by
  obtain ⟨k, rfl⟩ := Nat.exists_eq_add_of_lt h
  rw [hans, ← List.append_nil (bytes.map _), drawNonZero_append]
  rfl

theorem drawNonZero_fails (hans : ans = bytes.map .ok ++ .unavailable :: rest) : drawNonZero n ans = .unavailable := by
  obtain ⟨k, rfl⟩ := Nat.exists_eq_add_of_lt h
  rw [hans, drawNonZero_append]
  rfl

end

/-! ### The padded block -/

theorem read_writeBytes_paddedBlock (m : Memory) (ps chunk : List Byte) (a : Nat) :
    Memory.read (Memory.writeBytes m 0 (paddedBlock ps chunk)) a =
      if a < ps.length + 3 + chunk.length then (paddedBlock ps chunk).getD a 0#8 else Memory.read m a := by
  have hlength : (paddedBlock ps chunk).length = ps.length + 3 + chunk.length := by
    simp only [paddedBlock, List.length_cons, List.length_append]
    omega
  rw [Memory.read_writeBytes_zero, hlength]

theorem getD_paddedBlock_string {ps : List Byte} (chunk : List Byte) {j : Nat} (hj : j < ps.length) :
    (paddedBlock ps chunk).getD (2 + j) 0#8 = ps.getD j 0#8 := by
  rw [Nat.add_comm]
  exact List.getD_append _ _ _ _ hj

/-- The separator and the chunk stand behind the string. -/
theorem getD_paddedBlock_behind (ps chunk : List Byte) (j : Nat) :
    (paddedBlock ps chunk).getD (ps.length + 2 + j) 0#8 = (0x00#8 :: chunk).getD j 0#8 := by
  have hsplit : paddedBlock ps chunk = (0x00#8 :: 0x02#8 :: ps) ++ 0x00#8 :: chunk := rfl
  have hheader : ps.length + 2 = (0x00#8 :: 0x02#8 :: ps).length := rfl
  rw [hsplit, hheader, List.getD_append_right _ _ _ _ (Nat.le_add_right _ _), Nat.add_sub_cancel_left]

/-! ### PAD -/

theorem exec_pad_of_legal {s : State} (hle : s.BLKSIZE.toNat ≤ s.cfg.nb)
    (hfit : s.DLEN.toNat + 11 ≤ s.BLKSIZE.toNat) :
    exec .pad s = settle (drawNonZero (s.BLKSIZE.toNat - s.DLEN.toNat - 3) s.drawn)
      (fun ps => { s with BLK := Memory.writeBytes s.BLK 0 (paddedBlock ps (chunkBytes s)) }) s :=
  (if_neg (not_blockTooLarge hle)).trans (if_neg (Nat.not_lt.mpr hfit))

@[simp] theorem length_chunkBytes (s : State) : (chunkBytes s).length = s.DLEN.toNat :=
  Memory.length_readBytes _ _ _

theorem getD_chunkBytes {s : State} {j : Nat} (hj : j < s.DLEN.toNat) :
    (chunkBytes s).getD j 0#8 = Memory.read s.DATA j := by
  rw [chunkBytes, Memory.getD_readBytes _ _ _ _ hj, Nat.zero_add]

/-- Settles O29: after the checks the command ends as `drawNonZero` answers, and a block that is written is read part by
part. -/
theorem padResult : Obligations.PadResult := by
  refine ⟨by decide, fun s => ⟨fun hlarge => if_pos (decide_eq_true hlarge), fun hle hlong => ?tooLong,
    fun hle hfit bytes => ?legal⟩⟩
  case tooLong => exact (if_neg (not_blockTooLarge hle)).trans (if_pos hlong)
  case legal =>
    intro ps pslen
    rw [exec_pad_of_legal hle hfit]
    refine ⟨fun hdrawn henough => ?enough, fun hfew => ⟨fun hdrawn => ?short, fun hdrawn => ?fails⟩⟩
    case short => rw [drawNonZero_short hfew hdrawn]; rfl
    case fails => rw [drawNonZero_fails hfew hdrawn]; rfl
    case enough =>
      obtain ⟨rest, hdraw⟩ := hdrawn ▸ drawNonZero_enough henough
      have hstring : (ps.take pslen).length = pslen := List.length_take_of_le henough
      have hlength : pslen + 3 + s.DLEN.toNat = s.BLKSIZE.toNat := by omega
      have hread := read_writeBytes_paddedBlock s.BLK (ps.take pslen) (chunkBytes s)
      have hbehind := getD_paddedBlock_behind (ps.take pslen) (chunkBytes s)
      rw [hstring, length_chunkBytes, hlength] at hread
      rw [hstring] at hbehind
      have hinside {a : Nat} (ha : a < s.BLKSIZE.toNat) := (hread a).trans (if_pos ha)
      refine ⟨_, by rw [hdraw]; rfl, hinside (by omega), hinside (by omega), fun j hj => ?string,
        (hinside (by omega)).trans (hbehind 0), fun j hj => ?chunk, fun a ha => (hread a).trans (if_neg (by omega))⟩
      case string =>
        rw [hinside (by omega), getD_paddedBlock_string _ (by omega)]
        simp [hj]
      case chunk =>
        have hindex : pslen + 3 + j = pslen + 2 + (j + 1) := by omega
        rw [hinside (by omega), hindex, hbehind, List.getD_cons_succ, getD_chunkBytes hj]

/-! ### The search for the separator -/

section
variable {m : Memory}

/-- Without a 00 in the string there is no separator. -/
theorem afterSeparator_readBytes_eq_none {a n : Nat} (h : ∀ b, a ≤ b → b < a + n → Memory.read m b ≠ 0x00#8) :
    afterSeparator (Memory.readBytes m a n) = none := by
  induction n generalizing a with
  | zero => rfl
  | succ n ih =>
    rw [Memory.readBytes, afterSeparator, if_neg (h a le_rfl (by omega))]
    exact ih fun b hlow hhigh => h b (by omega) (by omega)

/-- The first 00 is the separator. -/
theorem afterSeparator_readBytes_eq_some {a k n : Nat} (hsep : Memory.read m (a + k) = 0x00#8)
    (hfirst : ∀ b, a ≤ b → b < a + k → Memory.read m b ≠ 0x00#8) :
    afterSeparator (Memory.readBytes m a (n + 1 + k)) = some (Memory.readBytes m (a + k + 1) n) := by
  induction k generalizing a with
  | zero => exact if_pos hsep
  | succ k ih =>
    rw [← Nat.add_assoc, Memory.readBytes, afterSeparator, if_neg (hfirst a le_rfl (by omega)), ← Nat.add_assoc a,
      Nat.add_right_comm a]
    exact ih (by rwa [Nat.add_right_comm]) fun b hlow hhigh => hfirst b (by omega) (by omega)

theorem unpad_readBytes_eq_none {n : Nat}
    (h : n < 2 ∨ Memory.read m 0 ≠ 0x00#8 ∨ Memory.read m 1 ≠ 0x02#8 ∨
      ∀ a, 2 ≤ a → a < n → Memory.read m a ≠ 0x00#8) :
    unpad (Memory.readBytes m 0 n) = none := by
  match n with
  | 0 | 1 => rfl
  | n + 2 =>
    obtain hshort | hzero | htwo | hnone := h
    · omega
    · exact if_neg fun hhead => hzero hhead.1
    · exact if_neg fun hhead => htwo hhead.2
    · simp only [Memory.readBytes, unpad]
      split
      · exact afterSeparator_readBytes_eq_none fun b hlow hhigh => hnone b hlow (by omega)
      · rfl

theorem unpad_readBytes_eq_some {n sep : Nat} (hzero : Memory.read m 0 = 0x00#8) (htwo : Memory.read m 1 = 0x02#8)
    (hlow : 2 ≤ sep) (hhigh : sep < n) (hsep : Memory.read m sep = 0x00#8)
    (hfirst : ∀ a, 2 ≤ a → a < sep → Memory.read m a ≠ 0x00#8) :
    unpad (Memory.readBytes m 0 n) = some (Memory.readBytes m (sep + 1) (n - sep - 1)) := by
  obtain ⟨k, rfl⟩ := Nat.exists_eq_add_of_le hlow
  obtain ⟨l, rfl⟩ := Nat.exists_eq_add_of_lt hhigh
  have hlength : 2 + k + l + 1 = l + 1 + k + 2 := by omega
  have hrest : 2 + k + l + 1 - (2 + k) - 1 = l := by omega
  rw [hrest, hlength]
  exact (if_pos ⟨hzero, htwo⟩).trans (afterSeparator_readBytes_eq_some hsep hfirst)

end

/-! ### UNPAD -/

section
variable {s : State} (hle : s.BLKSIZE.toNat ≤ s.cfg.nb)
include hle

theorem exec_unpad_of_none (h : unpad (blockBytes s) = none) :
    exec .unpad s = .next (finish .invalidPadding (deliverRaw s)) := by
  rw [exec, execUnpad, if_neg (not_blockTooLarge hle), h]

theorem exec_unpad_of_some {chunk : List Byte} (h : unpad (blockBytes s) = some chunk) :
    exec .unpad s = .next (complete
      { s with DATA := Memory.writeBytes s.DATA 0 chunk, DLEN := BitVec.ofNat 32 chunk.length }) := by
  rw [exec, execUnpad, if_neg (not_blockTooLarge hle), h]

end

/-- Settles O30: after the check the command ends as `unpad` answers on the block's bytes, and the buffer it leaves is
read by `Memory.read_writeBytes_readBytes`. -/
theorem unpadResult : Obligations.UnpadResult := by
  refine ⟨by decide, fun s => ⟨fun hlarge => if_pos (decide_eq_true hlarge), fun hle hbad => ?fallback,
    fun hle hzero htwo sep hlow hhigh hsep hfirst => ?chunk⟩⟩
  case fallback =>
    refine ⟨_, exec_unpad_of_none hle (unpad_readBytes_eq_none hbad), fun a => ?_⟩
    have hread := Memory.read_writeBytes_readBytes s.DATA s.BLK 0 s.BLKSIZE.toNat a
    rwa [Nat.zero_add] at hread
  case chunk =>
    have hchunk := exec_unpad_of_some hle (unpad_readBytes_eq_some hzero htwo hlow hhigh hsep hfirst)
    rw [Memory.length_readBytes] at hchunk
    exact ⟨_, hchunk, fun a => Memory.read_writeBytes_readBytes _ _ _ _ _⟩

end Sys2Proof.Machine

/-! PROOFS. The system commands of 45_system.md: how a CMD write starts a command (R119), NOP (R117) and CLR (R118). -/

namespace Sys2Proof

/-- The decoder reads the word of a command as that command (R60). -/
theorem decode_encode (i : Instr) : decode (encode i) = .command i := by
  cases i <;> rfl

end Sys2Proof

namespace Sys2Proof.Machine

/-! ### Command start -/

/-- A running block with the word of a command latched executes that command. -/
theorem blockStep_command {s : State} {i : Instr} (hrun : running s = true) (hdec : decode s.CMD = .command i) :
    blockStep s = exec i s := by
  simp [blockStep, fetchWord, hrun, hdec]

/-- With no hidden state left (R34), a start changes CMD, STATUS and RC alone. -/
theorem startCommand_eq_of_no_hidden {s : State} (w : Word) (hdrawn : s.drawn = []) (hreq : s.rngReq = false) :
    startCommand w s = { s with
      CMD := w, RC := .ok
      STATUS := { s.STATUS with BUSY := true, DONE := false, ERR := false, PRIME := false, PADFB := false } } := by
  rw [startCommand, hdrawn, hreq]

/-- The block's turn executes the command latched, while it runs and the reset input is low. -/
theorem step_block_command {s : State} {i : Instr} (rest : List Turn) (hbusy : s.STATUS.BUSY = true)
    (hrst : s.rst = false) (hdec : decode s.CMD = .command i) :
    step { s with turns := .block :: rest } = exec i { s with turns := rest } := by
  rw [step_cons rfl]
  exact blockStep_command (by simp [running, hbusy, hrst]) hdec

/-- Settles O5: an idle write to CMD is a start, after which `step_block_command` says what the block's turn does; a
busy one is discarded as every write is. -/
theorem cmdWriteStartsTheCommand : Obligations.CmdWriteStartsTheCommand := by
  refine fun s w rest hrst => ⟨fun hidle hdrawn hreq => ⟨?start, ?runs⟩, fun hbusy => ?dropped⟩
  case start =>
    rw [step_cmdWrite_idle w rest hrst hidle]
    exact congrArg Host.Outcome.next (startCommand_eq_of_no_hidden (s := { s with turns := rest }) w hdrawn hreq)
  case runs =>
    rintro i rfl
    exact step_block_command rest rfl hrst (decode_encode i)
  case dropped => exact step_hostWrite_busy w rest (by decide) hrst hbusy

/-! ### NOP -/

theorem exec_nop (s : State) : exec .nop s = .next (complete s) := rfl

/-- Settles O11: NOP is `complete`, and the run from an idle state is a start followed by it. -/
theorem nopOnlyCompletes : Obligations.NopOnlyCompletes := by
  refine fun s => ⟨exec_nop s, fun hidle hrst rest => ⟨_, step_cmdWrite_idle _ (.block :: rest) hrst hidle, ?_⟩⟩
  exact (step_block_command (s := startCommand (encode .nop) s) rest rfl hrst (decode_encode .nop)).trans (exec_nop _)

/-! ### CLR -/

/-- CLR completes with every operand register and DLEN 0 and both buffers empty. -/
theorem exec_clr (s : State) : exec .clr s = .next (complete
    { s with A := 0, B := 0, E := 0, N := 0, R := 0, BLK := [], DATA := [], DLEN := 0#32 }) := rfl

/-- Settles O12: CLR leaves both buffers empty, and an empty buffer reads 0 everywhere. -/
theorem clrZeroesOperandsAndBuffers : Obligations.ClrZeroesOperandsAndBuffers :=
  ⟨decode_encode .clr, fun s => ⟨[], [], exec_clr s, fun a => ⟨Memory.read_nil a, Memory.read_nil a⟩⟩⟩

end Sys2Proof.Machine

/-! PROOFS. The exceptions of 60_exceptions.md: the sticky bit WRBUSY (R138). -/

namespace Sys2Proof.Machine

/-! ### The block's move keeps WRBUSY -/

theorem EffectFrame.WRBUSY_eq {s u : State} (h : EffectFrame s u) : u.STATUS.WRBUSY = s.STATUS.WRBUSY :=
  (congrArg Status.WRBUSY h.STATUS :)

theorem CommandEnd.WRBUSY_eq {s t : State} (h : CommandEnd s t) : t.STATUS.WRBUSY = s.STATUS.WRBUSY := by
  cases h with
  | raised c _ => rfl
  | requested => rfl
  | completed u frame => exact frame.WRBUSY_eq

theorem execUnpad_WRBUSY {s t : State} (h : exec .unpad s = .next t) : t.STATUS.WRBUSY = s.STATUS.WRBUSY := by
  obtain hu | hu | ⟨u, frame, hu⟩ := execUnpad_cases s <;> rw [hu] at h <;> cases h
  · rfl
  · rfl
  · exact frame.WRBUSY_eq

theorem exec_WRBUSY {i : Instr} {s t : State} (h : exec i s = .next t) : t.STATUS.WRBUSY = s.STATUS.WRBUSY := by
  by_cases hi : i = .unpad
  · subst hi
    exact execUnpad_WRBUSY h
  · exact (exec_commandEnd hi h).WRBUSY_eq

theorem blockStep_WRBUSY {s t : State} (h : blockStep s = .next t) : t.STATUS.WRBUSY = s.STATUS.WRBUSY := by
  obtain ⟨_, hb⟩ | ⟨i, _, _, hb⟩ | ⟨_, _, _, hb⟩ := blockStep_cases s <;> rw [hb] at h
  · cases h; rfl
  · exact exec_WRBUSY h
  · cases h; rfl

/-! ### Reads, answers and the reset input leave STATUS alone -/

@[simp] theorem readAt_STATUS (l : Loc) (s : State) : (readAt l s).STATUS = s.STATUS := by
  unfold readAt
  split <;> rfl

@[simp] theorem acceptAnswer_STATUS (a : RngAnswer) (s : State) : (acceptAnswer a s).STATUS = s.STATUS := by
  unfold acceptAnswer
  split <;> rfl

/-- Driving the reset input low when it is low changes nothing. -/
theorem driveReset_false_of_low {s : State} (hrst : s.rst = false) : driveReset false s = s := by
  simp [driveReset, hrst]

/-! ### Host writes -/

/-- STATUS stands at word 1, offset 0x004, and nowhere else (R20). -/
theorem csrAt_status {i : Nat} (h : csrAt i = .csr .status) : i = 1 := by
  unfold csrAt at h
  split at h <;> cases h
  rfl

theorem addr_of_locate_status {c : Config} {addr : Nat} (ha : addr % 4 = 0) (h : locate c addr = .csr .status) :
    addr = 0x004 := by
  have := csrAt_status (locate_csr h).2
  omega

/-- An idle write, a command start included, changes WRBUSY only where it goes to STATUS. -/
theorem writeLoc_WRBUSY {l : Loc} (v : Word) (s : State) (hl : l ≠ .csr .status) :
    (s.writeLoc v l).STATUS.WRBUSY = s.STATUS.WRBUSY := by
  cases l with
  | csr c =>
    cases c with
    | status => exact absurd rfl hl
    | _ => rfl
  | operand x j => simp [State.writeLoc]
  | buffer x j => simp [State.writeLoc]
  | unmapped => rfl

/-- A write that clears a set WRBUSY goes to STATUS of an idle block and has bit 5 set. -/
theorem writeAt_clears_WRBUSY {l : Loc} {v : Word} {s : State} (hset : s.STATUS.WRBUSY = true)
    (h : (writeAt l v s).STATUS.WRBUSY ≠ true) :
    l = .csr .status ∧ s.STATUS.BUSY = false ∧ v.getLsbD 5 = true := by
  obtain ⟨_, hw⟩ | ⟨_, _, hw⟩ | ⟨_, hidle, hw⟩ := writeAt_cases l v s <;> rw [hw] at h
  · exact absurd hset h
  · exact absurd rfl h
  · obtain rfl : l = .csr .status := by_contra fun hl => h ((writeLoc_WRBUSY v s hl).trans hset)
    exact ⟨rfl, hidle, by simpa [State.writeLoc, Status.writeOneToClear, hset] using h⟩

/-! ### Steps -/

/-- The turns that clear a set WRBUSY while the reset input is low: its assertion, and an idle write of 1 to the bit. -/
theorem step_clears_WRBUSY {s t : State} {x : Turn} {rest : List Turn} (hrst : s.rst = false)
    (hset : s.STATUS.WRBUSY = true) (h : step { s with turns := x :: rest } = .next t)
    (hclear : t.STATUS.WRBUSY ≠ true) :
    x = .rst true ∨ ∃ v, x = .hostWrite 0x004 4 v ∧ s.STATUS.BUSY = false ∧ v.getLsbD 5 = true := by
  rw [step_cons rfl] at h
  cases x with
  | hostRead addr n =>
    obtain ⟨_, rfl⟩ := hostRead_next h
    exact absurd (by simpa using hset) hclear
  | hostWrite addr n v =>
    obtain ⟨⟨rfl, haddr, _⟩, rfl⟩ := hostWrite_next h
    obtain ⟨hloc, hidle, hbit⟩ := writeAt_clears_WRBUSY (s := { s with turns := rest }) hset hclear
    obtain rfl := addr_of_locate_status haddr hloc
    exact .inr ⟨v, rfl, hidle, hbit⟩
  | rngAnswer a =>
    cases h
    exact absurd (by simpa using hset) hclear
  | rngStale a =>
    cases h
    exact absurd hset hclear
  | rst level =>
    cases level with
    | true => exact .inl rfl
    | false =>
      cases h
      exact absurd (by simpa [driveReset_false_of_low, hrst] using hset) hclear
  | block => exact absurd ((blockStep_WRBUSY (s := { s with turns := rest }) h).trans hset) hclear

/-- Settles O47: the two kinds of write by the rules for idle and busy writes, every other turn by `step_clears_WRBUSY`. -/
theorem wrbusyIsSticky : Obligations.WrbusyIsSticky := by
  refine ⟨?idleClears, ?busySets, ?sticky⟩
  case idleClears =>
    intro s v rest hrst hidle hbit
    exact ⟨_, step_hostWrite_idle (l := .csr .status) v rest (by decide) rfl hrst hidle,
      by simp [State.writeLoc, Status.writeOneToClear, hbit]⟩
  case busySets =>
    intro s t addr v rest hrst hbusy h
    have hperformed : hostWrite addr 4 v { s with turns := rest } = .next t := h
    obtain ⟨⟨_, haddr⟩, _⟩ := hostWrite_next hperformed
    rw [step_hostWrite_busy v rest haddr hrst hbusy] at h
    cases h
    exact ⟨rfl, rfl, rfl, rfl⟩
  case sticky =>
    intro s t x rest hrst hset hassert hwrite h
    by_contra hclear
    obtain hx | ⟨v, hx, hidle, hbit⟩ := step_clears_WRBUSY hrst hset h hclear
    · exact hassert hx
    · obtain hbusy | hclearBit := hwrite v hx
      · exact absurd (hbusy.symm.trans hidle) (by decide)
      · exact absurd (hbit.symm.trans hclearBit) (by decide)

end Sys2Proof.Machine

/-! PROOFS. The bit length of a random draw (R75), and the bytes a drawing function uses (R55). -/

namespace Sys2Proof.Machine

/-! ### The bounds of a draw -/

theorem randomBits_done {len v : Nat} {ans rest : List RngAnswer} (h : randomBits len ans = .done v rest) :
    ∃ bytes : List Byte, bytes.length = (len + 7) / 8 ∧ v = be2int (forceTopBit bytes) := by
  rw [randomBits] at h
  obtain ⟨bytes, rest', hlength, _, hd⟩ | ⟨_, _, _, _, hd⟩ | ⟨_, _, _, hd⟩ := drawBytes_cases (ceilDiv len 8) ans <;>
    rw [hd] at h <;> cases h
  exact ⟨bytes, hlength, rfl⟩

theorem randomBits_lt {len v : Nat} {ans rest : List RngAnswer} (h : randomBits len ans = .done v rest) :
    v < 2 ^ (8 * ((len + 7) / 8)) := by
  obtain ⟨bytes, hlength, rfl⟩ := randomBits_done h
  rw [← hlength, Nat.pow_mul]
  exact length_forceTopBit bytes ▸ be2int_lt (forceTopBit bytes)

theorem two_pow_seven_le_or (v : Byte) : 2 ^ 7 ≤ (v ||| 0x80#8).toNat := by
  rw [BitVec.toNat_or]
  exact Nat.right_le_or

/-- The forced bit is the top bit of the number. -/
theorem two_pow_le_be2int_forceTopBit {bytes : List Byte} (hpos : 0 < bytes.length) :
    2 ^ (8 * bytes.length - 1) ≤ be2int (forceTopBit bytes) := by
  cases bytes with
  | nil => exact absurd hpos (Nat.lt_irrefl 0)
  | cons v vs =>
    have hsplit : 8 * (v :: vs).length - 1 = 7 + 8 * vs.length := by rw [List.length_cons]; omega
    calc 2 ^ (8 * (v :: vs).length - 1)
        = 2 ^ 7 * 256 ^ vs.length := by rw [hsplit, Nat.pow_add, Nat.pow_mul]
      _ ≤ (v ||| 0x80#8).toNat * 256 ^ vs.length := Nat.mul_le_mul_right _ (two_pow_seven_le_or v)
      _ ≤ be2int (forceTopBit (v :: vs)) := by rw [forceTopBit, be2int_cons]; exact Nat.le_add_right _ _

/-- Settles O22: the forced top bit bounds the value from below and its number of bytes from above, which is what fixes
the bit length. -/
theorem randomBitsBitLength : Obligations.RandomBitsBitLength := by
  intro len v ans rest hlen hdone
  have hhigh := randomBits_lt hdone
  obtain ⟨bytes, hlength, rfl⟩ := randomBits_done hdone
  have hlow := two_pow_le_be2int_forceTopBit (bytes := bytes) (by omega)
  rw [hlength] at hlow
  have hbitlen := bitlen_unique _ _ hlow hhigh (by omega)
  exact ⟨hlow, hhigh, hbitlen.symm, by omega⟩

theorem randomInRange_done {lo hi v : Nat} {ans rest : List RngAnswer} (hle : lo ≤ hi)
    (h : randomInRange lo hi ans = .done v rest) : lo ≤ v ∧ v ≤ hi := by
  rw [randomInRange] at h
  cases hbits : randomBits (bitlen (hi - lo + 1)) ans <;> rw [hbits] at h <;> cases h
  exact ⟨Nat.le_add_right _ _, add_mod_range_le hle _⟩

/-! ### No answer is left over -/

/-- How a piece of pseudocode takes answers one after the other: it leaves no more than it got, an answer behind those it
used does not matter to it, and where it waited for one more answer it uses that answer. -/
structure TakesInOrder {α : Type} (f : List RngAnswer → Draw α) : Prop where
  leaves : ∀ {ans v rest}, f ans = .done v rest → rest.length ≤ ans.length
  ignores : ∀ {ans v rest} (x : RngAnswer), f ans = .done v rest → f (ans ++ [x]) = .done v (rest ++ [x])
  uses : ∀ {ans x v rest}, f ans = .wait → f (ans ++ [x]) = .done v rest → rest = []

theorem TakesInOrder.nothing {α : Type} (v : α) : TakesInOrder (Draw.done v) where
  leaves h := by cases h; exact le_rfl
  ignores x h := by cases h; rfl
  uses h _ := by cases h

theorem TakesInOrder.andThen {α β : Type} {f : List RngAnswer → Draw α} {g : α → List RngAnswer → Draw β}
    (hf : TakesInOrder f) (hg : ∀ v, TakesInOrder (g v)) : TakesInOrder fun ans => (f ans).andThen g where
  leaves {ans w rest} h := by
    cases hd : f ans <;> simp only [hd, Draw.andThen_done, Draw.andThen_unavailable, Draw.andThen_wait, reduceCtorEq] at h
    exact ((hg _).leaves h).trans (hf.leaves hd)
  ignores {ans w rest} x h := by
    cases hd : f ans <;> simp only [hd, Draw.andThen_done, Draw.andThen_unavailable, Draw.andThen_wait, reduceCtorEq] at h
    simp only [hf.ignores x hd, Draw.andThen_done, (hg _).ignores x h]
  uses {ans x w rest} hwait hdone := by
    cases hd : f ans with
    | unavailable => simp [hd] at hwait
    | done v left =>
      simp only [hd, hf.ignores x hd, Draw.andThen_done] at hwait hdone
      exact (hg v).uses hwait hdone
    | wait =>
      cases hd' : f (ans ++ [x]) <;>
        simp only [hd', Draw.andThen_done, Draw.andThen_unavailable, Draw.andThen_wait, reduceCtorEq] at hdone
      have hleaves := (hg _).leaves hdone
      rw [hf.uses hd hd'] at hleaves
      exact List.eq_nil_of_length_eq_zero (Nat.le_zero.mp hleaves)

/-- The one transaction RngByte() (R72), the first byte going on to g. -/
theorem TakesInOrder.byte {α : Type} {f : List RngAnswer → Draw α} {g : Byte → List RngAnswer → Draw α}
    (hnil : f [] = .wait) (hfail : ∀ ans, f (.unavailable :: ans) = .unavailable)
    (hbyte : ∀ v ans, f (.ok v :: ans) = g v ans) (hg : ∀ v, TakesInOrder (g v)) : TakesInOrder f where
  leaves {ans w rest} h := by
    match ans with
    | [] => rw [hnil] at h; cases h
    | .unavailable :: ans => rw [hfail] at h; cases h
    | .ok v :: ans => exact Nat.le_succ_of_le ((hg v).leaves (hbyte v ans ▸ h))
  ignores {ans w rest} x h := by
    match ans with
    | [] => rw [hnil] at h; cases h
    | .unavailable :: ans => rw [hfail] at h; cases h
    | .ok v :: ans => rw [List.cons_append, hbyte, (hg v).ignores x (hbyte v ans ▸ h)]
  uses {ans x w rest} hwait hdone := by
    match ans, x with
    | [], .unavailable => rw [List.nil_append, hfail] at hdone; cases hdone
    | [], .ok v =>
      rw [List.nil_append, hbyte] at hdone
      exact List.eq_nil_of_length_eq_zero (Nat.le_zero.mp ((hg v).leaves hdone))
    | .unavailable :: ans, _ => rw [hfail] at hwait; cases hwait
    | .ok v :: ans, x =>
      rw [List.cons_append, hbyte] at hdone
      exact (hg v).uses (hbyte v ans ▸ hwait) hdone

theorem drawBytes_takesInOrder (n : Nat) : TakesInOrder (drawBytes n) := by
  induction n with
  | zero => exact .nothing []
  | succ n ih =>
    exact .byte rfl (fun _ => rfl) (fun _ _ => rfl) fun v => ih.andThen fun vs => .nothing (v :: vs)

theorem randomBits_takesInOrder (len : Nat) : TakesInOrder (randomBits len) :=
  (drawBytes_takesInOrder _).andThen fun _ => .nothing _

theorem randomInRange_takesInOrder (lo hi : Nat) : TakesInOrder (randomInRange lo hi) :=
  (randomBits_takesInOrder _).andThen fun _ => .nothing _

theorem rounds_takesInOrder (n r d k passed : Nat) : TakesInOrder (rounds n r d k passed) := by
  induction k generalizing passed with
  | zero => exact .nothing _
  | succ k ih =>
    refine (randomInRange_takesInOrder 2 (n - 2)).andThen fun a => ?_
    split
    · exact ih (passed + 1)
    · exact .nothing _

theorem millerRabin_takesInOrder (n k : Nat) : TakesInOrder (millerRabin n k) := by
  unfold millerRabin
  split
  · exact .nothing _
  · split
    · exact .nothing _
    · split
      · exact .nothing _
      · exact rounds_takesInOrder _ _ _ _ _

/-- The answer that ends the padding string is its last byte, since a zero byte only asks again. -/
theorem drawNonZero_uses {n : Nat} {ans rest : List RngAnswer} {x : RngAnswer} {vs : List Byte}
    (hwait : drawNonZero n ans = .wait) (hdone : drawNonZero n (ans ++ [x]) = .done vs rest) : rest = [] := by
  obtain ⟨n, rfl⟩ : ∃ k, n = k + 1 := Nat.exists_eq_succ_of_ne_zero fun hzero => by simp [hzero] at hwait
  induction ans generalizing n vs with
  | nil =>
    cases x with
    | unavailable => cases hdone
    | ok v =>
      rw [List.nil_append, drawNonZero_succ_ok] at hdone
      split at hdone
      · cases hdone
      · cases n <;> cases hdone
        rfl
  | cons y ans ih =>
    cases y with
    | unavailable => cases hwait
    | ok v =>
      rw [List.cons_append, drawNonZero_succ_ok] at hdone
      rw [drawNonZero_succ_ok] at hwait
      by_cases hv : v = 0#8
      · rw [if_pos hv] at hwait hdone
        exact ih n hwait hdone
      · rw [if_neg hv] at hwait hdone
        cases n with
        | zero => simp at hwait
        | succ n =>
          cases hshort : drawNonZero (n + 1) ans <;> rw [hshort] at hwait <;> cases hwait
          cases hlong : drawNonZero (n + 1) (ans ++ [x]) <;> rw [hlong] at hdone <;> cases hdone
          exact ih n hshort hlong

/-- Settles O24: each drawing function takes the answers in order, one transaction at a time. -/
theorem noRequestedByteIsUnused : Obligations.NoRequestedByteIsUnused := by
  intro ans x
  exact ⟨fun len _ _ => (randomBits_takesInOrder len).uses, fun lo hi _ _ => (randomInRange_takesInOrder lo hi).uses,
    fun n k _ _ => (millerRabin_takesInOrder n k).uses, fun _ _ _ => drawNonZero_uses⟩

end Sys2Proof.Machine

/-! PROOFS. What the move of each command can end in (R120, R121, R127), with what a success writes (R16) and its bounds. -/

namespace Sys2Proof.Machine

/-! ### The ends of a command's move -/

/-- The fatal codes of each command's row in R127. -/
def raisable : Instr → List ResultCode
  | .nop => []
  | .montmul => [.modulusRejected, .evenModulus]
  | .modmul => [.modulusRejected]
  | .modexp => [.modulusRejected]
  | .mrtest => [.secureRandomUnavailable]
  | .pad => [.badLength, .dataTooLong, .secureRandomUnavailable]
  | .unpad => [.badLength]
  | .randbits => [.badLength, .secureRandomUnavailable]
  | .randrange => [.badRange, .secureRandomUnavailable]
  | .blk2int => [.badLength]
  | .int2blk => [.badLength, .valueTooLarge]
  | .clr => []

/-- The commands that draw random bytes (R55). -/
def drawing : List Instr := [.mrtest, .pad, .randbits, .randrange]

/-- The commands whose one result is R (R16). -/
def writingR : List Instr := [.montmul, .modmul, .modexp, .randbits, .randrange]

/-- What a success of a command writes (R16): the values are left open but for their bounds. -/
inductive Effect (s : State) : Instr → State → Prop where
  | nop : Effect s .nop s
  | clr : Effect s .clr { s with A := 0, B := 0, E := 0, N := 0, R := 0, BLK := [], DATA := [], DLEN := 0#32 }
  | result {i : Instr} (v : Nat) (writes : i ∈ writingR) (bound : s.Inv → v < 2 ^ s.cfg.maxbits) :
      Effect s i { s with R := v }
  | verdict (v : Verdict × Nat) : Effect s .mrtest (recordVerdict v s)
  | block {i : Instr} (bytes : List Byte) (writes : i = .pad ∨ i = .int2blk) (fits : s.BLKSIZE.toNat ≤ s.cfg.nb)
      (length : bytes.length = s.BLKSIZE.toNat) : Effect s i { s with BLK := Memory.writeBytes s.BLK 0 bytes }
  | number (v : Nat) (bound : s.Inv → v < 2 ^ s.cfg.maxbits) : Effect s .blk2int { s with A := v }
  | chunk (bytes : List Byte) (fits : s.BLKSIZE.toNat ≤ s.cfg.nb) (length : bytes.length ≤ s.BLKSIZE.toNat) :
      Effect s .unpad
        { s with DATA := Memory.writeBytes s.DATA 0 bytes, DLEN := BitVec.ofNat 32 bytes.length }

/-- The next states of command i's move: a fatal completion with a code of its row, the next RNG request, a completion
with its effect, or UNPAD's fallback. -/
inductive MoveEnd (i : Instr) (s : State) : State → Prop where
  | raised (c : ResultCode) (code : c ∈ raisable i) : MoveEnd i s (raise c s)
  | requested (draws : i ∈ drawing) : MoveEnd i s (requestByte s)
  | completed (u : State) (effect : Effect s i u) : MoveEnd i s (complete u)
  | fellBack (falls : i = .unpad) (fits : s.BLKSIZE.toNat ≤ s.cfg.nb) :
      MoveEnd i s (finish .invalidPadding (deliverRaw s))

section
variable {i : Instr} {s t : State}

/-- A check at a command's head: its fatal completion where it strikes, the rest of the pseudocode where it does not. -/
theorem MoveEnd.of_check {p : Prop} [Decidable p] {c : ResultCode} {r : Result}
    (h : (if p then .next (raise c s) else r) = .next t) (code : c ∈ raisable i)
    (rest : ¬ p → r = .next t → MoveEnd i s t) : MoveEnd i s t := by
  split at h
  · cases h
    exact .raised c code
  · exact rest ‹_› h

theorem MoveEnd.of_settle {α : Type} {d : Draw α} {effect : α → State} (h : settle d effect s = .next t)
    (code : .secureRandomUnavailable ∈ raisable i) (draws : i ∈ drawing)
    (done : ∀ v rest, d = .done v rest → Effect s i (effect v)) : MoveEnd i s t := by
  obtain ⟨v, rest, hd, hs⟩ | ⟨_, hs⟩ | ⟨_, hs⟩ := settle_cases d effect s <;> rw [hs] at h <;> cases h
  · exact .completed _ (done v rest hd)
  · exact .raised _ code
  · exact .requested draws

theorem MoveEnd.of_complete {u : State} (h : (.next (complete u) : Result) = .next t) (effect : Effect s i u) :
    MoveEnd i s t := by
  cases h
  exact .completed u effect

theorem blksize_le_nb (h : ¬ blockTooLarge s = true) : s.BLKSIZE.toNat ≤ s.cfg.nb := by
  simpa [blockTooLarge] using h

/-! ### The bounds of the results -/

/-- What is reduced modulo N fits a register (R88). -/
theorem mod_N_lt (v : Nat) (hne : s.N ≠ 0) (hinv : s.Inv) : v % s.N < 2 ^ s.cfg.maxbits :=
  (Nat.mod_lt v (Nat.pos_of_ne_zero hne)).trans (hinv.operands .n)

/-- A draw of at most MAXBITS bits fits a register, although it is rounded up to whole bytes (R75, R78). -/
theorem randomBits_lt_of_legal {c : Config} (hlegal : c.legal = true) {len v : Nat} {ans rest : List RngAnswer}
    (hle : len ≤ c.maxbits) (h : randomBits len ans = .done v rest) : v < 2 ^ c.maxbits := by
  have hbytes : 8 * ((len + 7) / 8) ≤ c.maxbits := by
    simp only [Config.legal, Bool.and_eq_true, beq_iff_eq] at hlegal
    omega
  exact (randomBits_lt h).trans_le (Nat.pow_le_pow_right Nat.two_pos hbytes)

/-- The number of a block of at most NB bytes fits a register (R115). -/
theorem be2int_lt_of_length {c : Config} {bytes : List Byte} (hle : bytes.length ≤ c.nb) :
    be2int bytes < 2 ^ c.maxbits := by
  have hbits : 8 * bytes.length ≤ c.maxbits := by
    unfold Config.nb at hle
    omega
  calc be2int bytes < 256 ^ bytes.length := be2int_lt bytes
    _ = 2 ^ (8 * bytes.length) := by rw [Nat.pow_mul]
    _ ≤ 2 ^ c.maxbits := Nat.pow_le_pow_right Nat.two_pos hbits

theorem length_blockBytes (s : State) : (blockBytes s).length = s.BLKSIZE.toNat := Memory.length_readBytes _ _ _

theorem length_of_drawNonZero {n : Nat} {ans rest : List RngAnswer} {ps : List Byte}
    (h : drawNonZero n ans = .done ps rest) : ps.length = n := by
  obtain ⟨_, _, hlength, _, hd⟩ | ⟨_, _, _, _, hd⟩ | ⟨_, _, _, hd⟩ := drawNonZero_cases n ans <;> rw [hd] at h <;> cases h
  exact hlength

theorem length_afterSeparator_le {vs chunk : List Byte} (h : afterSeparator vs = some chunk) :
    chunk.length ≤ vs.length := by
  induction vs with
  | nil => cases h
  | cons v vs ih =>
    rw [afterSeparator] at h
    split at h
    · cases h
      exact Nat.le_succ _
    · exact Nat.le_succ_of_le (ih h)

/-- The chunk lies inside the block. -/
theorem length_unpad_le {bytes chunk : List Byte} (h : unpad bytes = some chunk) : chunk.length ≤ bytes.length := by
  match bytes with
  | [] | [_] => cases h
  | x :: y :: vs =>
    rw [unpad] at h
    split at h
    · exact (length_afterSeparator_le h).trans (Nat.le_add_right _ 2)
    · cases h

theorem length_paddedBlock (ps chunk : List Byte) : (paddedBlock ps chunk).length = ps.length + 3 + chunk.length := by
  simp only [paddedBlock, List.length_cons, List.length_append]
  omega

/-! ### The move of each command -/

/-- How the move of each command ends. -/
theorem exec_moveEnd (h : exec i s = .next t) : MoveEnd i s t := by
  cases i with
  | nop => exact .of_complete h .nop
  | clr => exact .of_complete h .clr
  | montmul =>
    refine .of_check h (by decide) fun hne h => .of_check h (by decide) fun _ h => ?_
    exact .of_complete h (.result _ (by decide) (mod_N_lt _ hne))
  | modmul =>
    refine .of_check h (by decide) fun hne h => ?_
    exact .of_complete h (.result _ (by decide) (mod_N_lt _ hne))
  | modexp =>
    refine .of_check h (by decide) fun hne h => .of_complete h (.result _ (by decide) fun hinv => ?_)
    rw [modPow_eq (Nat.pos_of_ne_zero hne)]
    exact mod_N_lt _ hne hinv
  | mrtest => exact .of_settle h (by decide) (by decide) fun v _ _ => .verdict v
  | pad =>
    refine .of_check h (by decide) fun hfits h => .of_check h (by decide) fun hlong h => ?_
    refine .of_settle h (by decide) (by decide) fun ps rest hdraw => ?_
    refine .block _ (.inl rfl) (blksize_le_nb hfits) ?_
    rw [length_paddedBlock, length_of_drawNonZero hdraw, length_chunkBytes]
    omega
  | unpad =>
    refine .of_check h (by decide) fun hfits h => ?_
    cases hblock : unpad (blockBytes s) with
    | none =>
      rw [hblock] at h
      cases h
      exact .fellBack rfl (blksize_le_nb hfits)
    | some chunk =>
      rw [hblock] at h
      exact .of_complete h (.chunk chunk (blksize_le_nb hfits) (length_blockBytes s ▸ length_unpad_le hblock))
  | randbits =>
    refine .of_check h (by decide) fun hlegal h => .of_settle h (by decide) (by decide) fun v rest hdraw => ?_
    exact .result v (by decide) fun hinv => randomBits_lt_of_legal hinv.width (by omega) hdraw
  | randrange =>
    refine .of_check h (by decide) fun hrange h => .of_settle h (by decide) (by decide) fun v rest hdraw => ?_
    exact .result v (by decide) fun hinv =>
      (randomInRange_done (Nat.not_lt.mp hrange) hdraw).2.trans_lt (hinv.operands .b)
  | blk2int =>
    refine .of_check h (by decide) fun hfits h => .of_complete h (.number _ fun _ => ?_)
    exact be2int_lt_of_length (length_blockBytes s ▸ blksize_le_nb hfits)
  | int2blk =>
    refine .of_check h (by decide) fun hfits h => .of_check h (by decide) fun _ h => ?_
    exact .of_complete h (.block _ (.inr rfl) (blksize_le_nb hfits) (length_int2be _ _))

/-- No effect touches what `EffectFrame` lists. -/
theorem Effect.frame {u : State} (h : Effect s i u) : EffectFrame s u := by
  cases h <;> constructor <;> rfl

/-! ### Answers and codes -/

theorem next_of_check {p : Prop} [Decidable p] {u : State} {r : Result} (h : ∃ t, r = .next t) :
    ∃ t, (if p then .next u else r) = .next t := by
  split
  · exact ⟨u, rfl⟩
  · exact h

theorem settle_next {α : Type} (d : Draw α) (effect : α → State) (s : State) : ∃ t, settle d effect s = .next t := by
  cases d <;> exact ⟨_, rfl⟩

/-- No command's move is a fault or a refusal. -/
theorem exec_next (i : Instr) (s : State) : ∃ t, exec i s = .next t := by
  cases i with
  | nop | clr => exact ⟨_, rfl⟩
  | modmul | modexp | blk2int => exact next_of_check ⟨_, rfl⟩
  | montmul | int2blk => exact next_of_check (next_of_check ⟨_, rfl⟩)
  | mrtest => exact settle_next _ _ s
  | randbits | randrange => exact next_of_check (settle_next _ _ s)
  | pad => exact next_of_check (next_of_check (settle_next _ _ s))
  | unpad => obtain hu | hu | ⟨_, _, hu⟩ := execUnpad_cases s <;> exact ⟨_, hu⟩

/-- Settles O6: of the four ends of a move the request alone is no completion, and only the drawing commands request. -/
theorem execCompletesOrRequestsAByte : Obligations.ExecCompletesOrRequestsAByte := by
  intro i s
  obtain ⟨t, h⟩ := exec_next i s
  refine ⟨t, h, ?_⟩
  cases exec_moveEnd h with
  | requested draws =>
    refine ⟨.inl rfl, fun hmrtest hpad hrandbits hrandrange => ?_⟩
    simp [drawing, hmrtest, hpad, hrandbits, hrandrange] at draws
  | raised c _ => exact ⟨.inr ⟨rfl, rfl, rfl, rfl⟩, fun _ _ _ _ => ⟨rfl, rfl⟩⟩
  | completed u _ => exact ⟨.inr ⟨rfl, rfl, rfl, rfl⟩, fun _ _ _ _ => ⟨rfl, rfl⟩⟩
  | fellBack _ _ => exact ⟨.inr ⟨rfl, rfl, rfl, rfl⟩, fun _ _ _ _ => ⟨rfl, rfl⟩⟩

/-- The code of a move that is no request: OK, a fatal code of the command's row, or UNPAD's InvalidPadding. -/
theorem MoveEnd.code (h : MoveEnd i s t) (hreq : t ≠ requestByte s) :
    t.RC = .ok ∨ t.RC ∈ raisable i ∨ (i = .unpad ∧ t.RC = .invalidPadding) := by
  cases h with
  | requested _ => exact absurd rfl hreq
  | raised c code => exact .inr (.inl code)
  | completed u _ => exact .inl rfl
  | fellBack falls _ => exact .inr (.inr ⟨falls, rfl⟩)

/-- Settles O7: `raisable` is the table of the fatal codes, and only UNPAD ends with InvalidPadding. -/
theorem commandsEndOnlyWithTheirCodes : Obligations.CommandsEndOnlyWithTheirCodes := by
  intro i s t h hreq
  have hcode := (exec_moveEnd h).code hreq
  cases i <;> simpa [raisable, or_assoc] using hcode

theorem fatal_of_mem_raisable {c : ResultCode} (h : c ∈ raisable i) : c.fatal = true := by
  have hall : (raisable i).all ResultCode.fatal = true := by cases i <;> rfl
  exact List.all_eq_true.mp hall c h

/-- Settles O8: of the four ends of a move only `raise` has a fatal code, and it is the record written out. -/
theorem fatalErrorsArePrecise : Obligations.FatalErrorsArePrecise := by
  intro i s t h hreq hfatal
  cases exec_moveEnd h with
  | raised c _ => rfl
  | requested _ => exact absurd rfl hreq
  | completed u _ => cases hfatal
  | fellBack _ _ => cases hfatal

/-! ### What a move leaves alone -/

/-- What no move of a command changes, however it ends. -/
structure MoveFrame (s t : State) : Prop where
  cfg : t.cfg = s.cfg
  CMD : t.CMD = s.CMD
  IEN : t.IEN = s.IEN
  K : t.K = s.K
  BITLEN : t.BITLEN = s.BITLEN
  BLKSIZE : t.BLKSIZE = s.BLKSIZE
  WRBUSY : t.STATUS.WRBUSY = s.STATUS.WRBUSY
  rst : t.rst = s.rst
  turns : t.turns = s.turns
  readData : t.readData = s.readData
  freeCount : t.freeCount = s.freeCount

theorem MoveEnd.frame (h : MoveEnd i s t) : MoveFrame s t := by
  cases h with
  | completed u effect =>
    have hframe := effect.frame
    exact ⟨hframe.cfg, hframe.CMD, hframe.IEN, hframe.K, hframe.BITLEN, hframe.BLKSIZE, hframe.WRBUSY_eq, hframe.rst,
      hframe.turns, hframe.readData, hframe.freeCount⟩
  | _ => constructor <;> rfl

/-- What the end of a move does not touch is unchanged where the effect and the fallback leave it. -/
theorem MoveEnd.unchanged {α : Type} (h : MoveEnd i s t) (f : State → α) (hfinish : ∀ c u, f (finish c u) = f u)
    (hraise : ∀ c, f (raise c s) = f s) (hrequest : f (requestByte s) = f s)
    (heffect : ∀ {u}, Effect s i u → f u = f s) (hraw : i = .unpad → f (deliverRaw s) = f s) : f t = f s := by
  cases h with
  | raised c _ => exact hraise c
  | requested _ => exact hrequest
  | completed u effect => exact (hfinish .ok u).trans (heffect effect)
  | fellBack falls _ => exact (hfinish _ _).trans (hraw falls)

section
variable {u : State} (h : Effect s i u)
include h

theorem Effect.BEN_eq (hclr : i ≠ .clr) : u.B = s.B ∧ u.E = s.E ∧ u.N = s.N := by
  cases h with
  | clr => exact absurd rfl hclr
  | _ => exact ⟨rfl, rfl, rfl⟩

theorem Effect.A_eq (hclr : i ≠ .clr) (hnumber : i ≠ .blk2int) : u.A = s.A := by
  cases h with
  | clr => exact absurd rfl hclr
  | number => exact absurd rfl hnumber
  | _ => rfl

theorem Effect.R_eq (hclr : i ≠ .clr) (hresult : i ∉ writingR) : u.R = s.R := by
  cases h with
  | clr => exact absurd rfl hclr
  | result v writes _ => exact absurd writes hresult
  | _ => rfl

theorem Effect.BLK_eq (hclr : i ≠ .clr) (hpad : i ≠ .pad) (hint : i ≠ .int2blk) : u.BLK = s.BLK := by
  cases h with
  | clr => exact absurd rfl hclr
  | block _ writes _ _ => exact absurd writes (not_or.mpr ⟨hpad, hint⟩)
  | _ => rfl

theorem Effect.read_BLK_beyond (hclr : i ≠ .clr) {a : Nat} (ha : s.BLKSIZE.toNat ≤ a) :
    Memory.read u.BLK a = Memory.read s.BLK a := by
  cases h with
  | clr => exact absurd rfl hclr
  | block bytes _ _ length => exact (Memory.read_writeBytes_zero _ _ _).trans (if_neg (by omega))
  | _ => rfl

theorem Effect.DATA_eq (hclr : i ≠ .clr) (hunpad : i ≠ .unpad) : u.DATA = s.DATA ∧ u.DLEN = s.DLEN := by
  cases h with
  | clr => exact absurd rfl hclr
  | chunk => exact absurd rfl hunpad
  | _ => exact ⟨rfl, rfl⟩

theorem Effect.read_DATA_beyond (hclr : i ≠ .clr) {a : Nat} (ha : u.DLEN.toNat ≤ a) :
    Memory.read u.DATA a = Memory.read s.DATA a := by
  cases h with
  | clr => exact absurd rfl hclr
  | chunk bytes _ length =>
    have hlength : (BitVec.ofNat 32 bytes.length).toNat = bytes.length :=
      Nat.mod_eq_of_lt (length.trans_lt s.BLKSIZE.isLt)
    exact (Memory.read_writeBytes_zero _ _ _).trans (if_neg (Nat.not_lt.mpr (hlength.symm.trans_le ha)))
  | _ => rfl

theorem Effect.verdict_eq (hmrtest : i ≠ .mrtest) : u.RNDCNT = s.RNDCNT ∧ u.STATUS.PRIME = s.STATUS.PRIME := by
  cases h with
  | verdict => exact absurd rfl hmrtest
  | _ => exact ⟨rfl, rfl⟩

theorem Effect.PADFB_eq : u.STATUS.PADFB = s.STATUS.PADFB :=
  (congrArg Status.PADFB h.frame.STATUS :)

end

theorem read_deliverRaw_DATA_beyond {a : Nat} (ha : s.BLKSIZE.toNat ≤ a) :
    Memory.read (deliverRaw s).DATA a = Memory.read s.DATA a :=
  (Memory.read_writeBytes_zero _ _ _).trans (if_neg (by rw [length_blockBytes]; omega))

/-- A move that ends without a fatal code leaves DATA beyond the new DLEN; CLR is apart. -/
theorem MoveEnd.read_DATA_beyond (h : MoveEnd i s t) (hclr : i ≠ .clr) {a : Nat} (ha : t.DLEN.toNat ≤ a) :
    Memory.read t.DATA a = Memory.read s.DATA a := by
  cases h with
  | completed u effect => exact effect.read_DATA_beyond hclr ha
  | fellBack _ _ => exact read_deliverRaw_DATA_beyond ha
  | _ => rfl

/-- Settles O9: what the ends of a move touch is the same for all commands, and what they leave is left by every effect but
those of the commands that list it. -/
theorem commandsWriteOnlyWhatIsListed : Obligations.CommandsWriteOnlyWhatIsListed := by
  intro i s t h
  have hend := exec_moveEnd h
  have hframe := hend.frame
  refine ⟨?frame, fun hclr => ?operands, fun hclr hnumber => ?A, fun hclr h1 h2 h3 h4 h5 => ?R, fun hclr hpad hint => ?BLK,
    fun hclr a ha => ?beyondBLK, fun hclr hunpad => ?DATA, fun hclr _ a ha => hend.read_DATA_beyond hclr ha,
    fun hunpad => ?fallback, fun hmrtest => ?verdict⟩
  case frame =>
    exact ⟨hframe.cfg, hframe.CMD, hframe.IEN, hframe.K, hframe.BITLEN, hframe.BLKSIZE, hframe.WRBUSY, hframe.rst,
      hframe.turns, hframe.readData, hframe.freeCount⟩
  case operands =>
    have hBEN := hend.unchanged (fun t => (t.B, t.E, t.N)) (fun _ _ => rfl) (fun _ => rfl) rfl
      (fun effect => by simp [effect.BEN_eq hclr]) (fun _ => rfl)
    simpa using hBEN
  case A =>
    exact hend.unchanged State.A (fun _ _ => rfl) (fun _ => rfl) rfl (·.A_eq hclr hnumber) (fun _ => rfl)
  case R =>
    have hresult : i ∉ writingR := by simp [writingR, *]
    exact hend.unchanged State.R (fun _ _ => rfl) (fun _ => rfl) rfl (·.R_eq hclr hresult) (fun _ => rfl)
  case BLK =>
    exact hend.unchanged State.BLK (fun _ _ => rfl) (fun _ => rfl) rfl (·.BLK_eq hclr hpad hint) (fun _ => rfl)
  case beyondBLK =>
    exact hend.unchanged (fun t => Memory.read t.BLK a) (fun _ _ => rfl) (fun _ => rfl) rfl (·.read_BLK_beyond hclr ha)
      (fun _ => rfl)
  case DATA =>
    have hDATA := hend.unchanged (fun t => (t.DATA, t.DLEN)) (fun _ _ => rfl) (fun _ => rfl) rfl
      (fun effect => by simp [effect.DATA_eq hclr hunpad]) (absurd · hunpad)
    simpa using hDATA
  case fallback =>
    have hFBCNT := hend.unchanged (fun t => (t.FBCNT, t.STATUS.PADFB)) (fun _ _ => rfl) (fun _ => rfl) rfl
      (fun effect => by simp [effect.frame.FBCNT, effect.PADFB_eq]) (absurd · hunpad)
    simpa using hFBCNT
  case verdict =>
    have hPRIME := hend.unchanged (fun t => (t.RNDCNT, t.STATUS.PRIME)) (fun _ _ => rfl) (fun _ => rfl) rfl
      (fun effect => by simp [effect.verdict_eq hmrtest]) (fun _ => rfl)
    simpa using hPRIME

/-! ### The flags at a completion -/

/-- From a start that has cleared ERR, a move ends with ERR exactly beside a fatal code, unless it only requests. -/
theorem MoveEnd.ERR_eq_fatal (h : MoveEnd i s t) (herr : s.STATUS.ERR = false) (hreq : t ≠ requestByte s) :
    t.STATUS.ERR = t.RC.fatal := by
  cases h with
  | raised c code => exact (fatal_of_mem_raisable code).symm
  | requested _ => exact absurd rfl hreq
  | completed u effect => exact ((congrArg Status.ERR effect.frame.STATUS :)).trans herr
  | fellBack _ _ => exact herr

/-- A move that ends the command sets DONE. -/
theorem MoveEnd.DONE (h : MoveEnd i s t) (hreq : t ≠ requestByte s) : t.STATUS.DONE = true := by
  cases h with
  | requested _ => exact absurd rfl hreq
  | _ => rfl

/-- A move that ends with InvalidPadding is the fallback. -/
theorem MoveEnd.eq_fallback (h : MoveEnd i s t) (hreq : t ≠ requestByte s) (hcode : t.RC = .invalidPadding) :
    t = finish .invalidPadding (deliverRaw s) := by
  cases h with
  | requested _ => exact absurd rfl hreq
  | raised c code =>
    obtain rfl : c = .invalidPadding := hcode
    cases fatal_of_mem_raisable code
  | completed u _ => cases hcode
  | fellBack _ _ => rfl

/-- Settles O46: IEN is unchanged, DONE is set, and ERR is set exactly beside a fatal code. -/
theorem interruptAtCompletion : Obligations.InterruptAtCompletion := by
  intro i s t hbusy herr h hidle
  have hend := exec_moveEnd h
  have hreq : t ≠ requestByte s := by
    rintro rfl
    exact absurd (hidle.symm.trans hbusy) (by decide)
  have hERR := hend.ERR_eq_fatal herr hreq
  refine ⟨fun hdone => ?done, fun hdone hier => ?err, fun hcode => ?fallback⟩
  case done => simp [State.IRQ, hend.frame.IEN, hdone, hend.DONE hreq]
  case err => simp [State.IRQ, hend.frame.IEN, hdone, hier, hERR]
  case fallback =>
    refine ⟨by rw [hERR, hcode]; rfl, ?_⟩
    rw [hend.eq_fallback hreq hcode]
    rfl

end

end Sys2Proof.Machine

/-! PROOFS. Reset (R38, R141, R142) and the invariant of every reachable state. -/

namespace Sys2Proof.Machine

/-! ### What the registers hold -/

/-- The clauses of the invariant about the width, the operand registers and the buffers (R8, R14, R17, R18). -/
structure State.HoldsInRange (s : State) : Prop where
  width : s.cfg.legal = true
  operands : ∀ x : Operand, s.operand x < 2 ^ s.cfg.maxbits
  buffers : ∀ x : Buffer, (s.buffer x).wf = true ∧ Memory.below s.cfg.nb (s.buffer x) = true

section
variable {s t : State}

theorem State.Inv.holdsInRange (h : s.Inv) : s.HoldsInRange := ⟨h.width, h.operands, h.buffers⟩

/-- One operand register replaced by a number in range. -/
theorem State.HoldsInRange.setOperand (h : s.HoldsInRange) {v : Nat} (hv : v < 2 ^ s.cfg.maxbits) (x : Operand) :
    (s.setOperand v x).HoldsInRange where
  width := by simpa using h.width
  operands y := by
    rw [operand_setOperand, setOperand_cfg]
    split
    · exact hv
    · exact h.operands y
  buffers y := by simpa using h.buffers y

/-- One buffer replaced by a canonical one below NB. -/
theorem State.HoldsInRange.setBuffer (h : s.HoldsInRange) {m : Memory} (hwf : m.wf = true)
    (hbelow : Memory.below s.cfg.nb m = true) (x : Buffer) : (s.setBuffer m x).HoldsInRange where
  width := by simpa using h.width
  operands y := by simpa using h.operands y
  buffers y := by
    rw [buffer_setBuffer, setBuffer_cfg]
    split
    · exact ⟨hwf, hbelow⟩
    · exact h.buffers y

/-- One buffer after a string write below NB. -/
theorem State.HoldsInRange.writeBytes (h : s.HoldsInRange) {a : Nat} {bytes : List Byte}
    (hfits : a + bytes.length ≤ s.cfg.nb) (x : Buffer) :
    (s.setBuffer (Memory.writeBytes (s.buffer x) a bytes) x).HoldsInRange := by
  obtain ⟨hwf, hbelow⟩ := h.buffers x
  exact h.setBuffer (Memory.wf_writeBytes _ _ _ hwf) (Memory.below_writeBytes _ _ _ _ hfits hbelow) x

/-- States with the same width, operand registers and buffers. -/
theorem State.HoldsInRange.congr (h : s.HoldsInRange) (hcfg : t.cfg = s.cfg) (hoperand : ∀ x, t.operand x = s.operand x)
    (hbuffer : ∀ x, t.buffer x = s.buffer x) : t.HoldsInRange where
  width := hcfg ▸ h.width
  operands x := hcfg ▸ hoperand x ▸ h.operands x
  buffers x := hcfg ▸ hbuffer x ▸ h.buffers x

/-- Every effect stays in range. -/
theorem Effect.holdsInRange {i : Instr} {u : State} (h : Effect s i u) (hinv : s.Inv) : u.HoldsInRange := by
  have hs := hinv.holdsInRange
  cases h with
  | nop => exact hs
  | clr =>
    exact ⟨hs.width, fun x => by cases x <;> exact Nat.two_pow_pos _, fun x => by cases x <;> exact ⟨rfl, rfl⟩⟩
  | result v _ bound => exact hs.setOperand (bound hinv) .r
  | verdict v => exact hs.congr rfl (fun _ => rfl) fun _ => rfl
  | block bytes _ fits length => exact hs.writeBytes (by omega) .blk
  | number v bound => exact hs.setOperand (bound hinv) .a
  | chunk bytes fits length =>
    exact (hs.writeBytes (a := 0) (bytes := bytes) (by omega) .data).congr rfl (fun _ => rfl) fun _ => rfl

theorem deliverRaw_holdsInRange (hinv : s.Inv) (fits : s.BLKSIZE.toNat ≤ s.cfg.nb) : (deliverRaw s).HoldsInRange := by
  refine (hinv.holdsInRange.writeBytes (a := 0) (bytes := blockBytes s) ?_ .data).congr rfl (fun _ => rfl) fun _ => rfl
  rwa [length_blockBytes, Nat.zero_add]

/-! ### The block's move -/

theorem running_iff : running s = true ↔ s.STATUS.BUSY = true ∧ s.rst = false := by simp [running]

/-- A completion with flags that suit its code. -/
theorem finish_inv {c : ResultCode} {u : State} (hu : u.HoldsInRange) (hlow : u.rst = false)
    (hpadfb : u.STATUS.PADFB = true ↔ c = .invalidPadding) (herr : u.STATUS.ERR = true → c.fatal = true)
    (hprime : u.STATUS.PRIME = true → c = .ok) : (finish c u).Inv where
  width := hu.width
  operands := hu.operands
  buffers := hu.buffers
  busyFlags h := by cases h
  idleHidden _ := ⟨rfl, rfl⟩
  fallbackTag := hpadfb
  errFatal := herr
  primeOk := hprime
  heldInReset h := absurd (h.symm.trans hlow) (by decide)

/-- States with the same flags and code, while the reset input is low. -/
theorem State.Inv.of_same_flags (hinv : s.Inv) (ht : t.HoldsInRange) (hstatus : t.STATUS = s.STATUS) (hrc : t.RC = s.RC)
    (hhidden : s.STATUS.BUSY = false → t.drawn = [] ∧ t.rngReq = false) (hlow : t.rst = false) : t.Inv where
  width := ht.width
  operands := ht.operands
  buffers := ht.buffers
  busyFlags := hstatus ▸ hrc ▸ hinv.busyFlags
  idleHidden := hstatus ▸ hhidden
  fallbackTag := hstatus ▸ hrc ▸ hinv.fallbackTag
  errFatal := hstatus ▸ hrc ▸ hinv.errFatal
  primeOk := hstatus ▸ hrc ▸ hinv.primeOk
  heldInReset h := absurd (h.symm.trans hlow) (by decide)

section
variable (hinv : s.Inv) (hrun : running s = true)
include hinv hrun

/-- A fatal completion of a running command, whose start has cleared the flags. -/
theorem raise_inv {c : ResultCode} (hfatal : c.fatal = true) : (raise c s).Inv := by
  obtain ⟨hbusy, hlow⟩ := running_iff.mp hrun
  obtain ⟨-, -, hprime, hpadfb, -⟩ := hinv.busyFlags hbusy
  have hcode : c ≠ .invalidPadding := by
    rintro rfl
    cases hfatal
  exact finish_inv (c := c) (u := { s with STATUS := { s.STATUS with ERR := true } })
    (hinv.holdsInRange.congr rfl (fun _ => rfl) fun _ => rfl) hlow (by simp [hpadfb, hcode]) (fun _ => hfatal)
    (by simp [hprime])

theorem MoveEnd.inv {i : Instr} (h : MoveEnd i s t) : t.Inv := by
  obtain ⟨hbusy, hlow⟩ := running_iff.mp hrun
  obtain ⟨-, herr, hprime, hpadfb, -⟩ := hinv.busyFlags hbusy
  cases h with
  | raised c code => exact raise_inv hinv hrun (fatal_of_mem_raisable code)
  | requested _ =>
    exact hinv.of_same_flags (hinv.holdsInRange.congr rfl (fun _ => rfl) fun _ => rfl) rfl rfl
      (fun hidle => absurd (hidle.symm.trans hbusy) (by decide)) hlow
  | completed u effect =>
    have hERR : u.STATUS.ERR = false := (congrArg Status.ERR effect.frame.STATUS :).trans herr
    have hPADFB := effect.PADFB_eq.trans hpadfb
    exact finish_inv (effect.holdsInRange hinv) (effect.frame.rst.trans hlow) (by simp [hPADFB]) (by simp [hERR])
      (fun _ => rfl)
  | fellBack _ fits =>
    exact finish_inv (deliverRaw_holdsInRange hinv fits) hlow (by simp [deliverRaw]) (by simp [deliverRaw, herr])
      (by simp [deliverRaw, hprime])

end

theorem blockStep_inv (hinv : s.Inv) (h : blockStep s = .next t) : t.Inv := by
  obtain ⟨_, hb⟩ | ⟨i, hrun, _, hb⟩ | ⟨_, hrun, _, hb⟩ := blockStep_cases s <;> rw [hb] at h
  · cases h
    exact hinv
  · exact (exec_moveEnd h).inv hinv hrun
  · cases h
    exact raise_inv hinv hrun rfl

/-! ### Host accesses -/

/-- The model's own fields are no concern of the invariant. -/
theorem State.Inv.with_own (hinv : s.Inv) (turns : List Turn) (readData : Option Word) (freeCount : Nat) :
    ({ s with turns := turns, readData := readData, freeCount := freeCount } : State).Inv where
  width := hinv.width
  operands := hinv.operands
  buffers := hinv.buffers
  busyFlags := hinv.busyFlags
  idleHidden := hinv.idleHidden
  fallbackTag := hinv.fallbackTag
  errFatal := hinv.errFatal
  primeOk := hinv.primeOk
  heldInReset h := congrArg (fun u : State => { u with turns := turns, readData := readData, freeCount := freeCount })
    (hinv.heldInReset h)

theorem readAt_inv (hinv : s.Inv) (l : Loc) : (readAt l s).Inv := by
  unfold readAt
  split <;> exact hinv.with_own _ _ _

/-- The places an implementation of a width has: of a window only the words below NW (R42). -/
def Loc.Implemented (c : Config) : Loc → Prop
  | .operand _ j => j < c.nw
  | .buffer _ j => j < c.nw
  | .csr _ => True
  | .unmapped => True

theorem locate_implemented (c : Config) (addr : Nat) : (locate c addr).Implemented c := by
  unfold locate
  split
  · unfold csrAt
    split <;> trivial
  · split
    · unfold windowAt
      split <;> trivial
    · trivial

/-- A word below NW lies inside the register (R43). -/
theorem setOperandWord_lt {c : Config} {x j : Nat} (hx : x < 2 ^ c.maxbits) (hj : j < c.nw) (v : Word) :
    setOperandWord x j v < 2 ^ c.maxbits := by
  have hword : 32 * j + 32 ≤ c.maxbits := by
    unfold Config.nw at hj
    omega
  refine Nat.lt_pow_two_of_testBit _ fun b hb => ?_
  rw [testBit_setOperandWord, if_neg (by omega)]
  exact Nat.testBit_eq_false_of_lt (hx.trans_le (Nat.pow_le_pow_right Nat.two_pos hb))

/-- A command start clears the flags (R119). -/
theorem startCommand_inv (hinv : s.Inv) (hlow : s.rst = false) (w : Word) : (startCommand w s).Inv where
  width := hinv.width
  operands := hinv.operands
  buffers := hinv.buffers
  busyFlags _ := ⟨rfl, rfl, rfl, rfl, rfl⟩
  idleHidden h := by cases h
  fallbackTag := by simp
  errFatal h := by cases h
  primeOk _ := rfl
  heldInReset h := absurd (h.symm.trans hlow) (by decide)

/-- A write of ones clears flags of an idle block and sets none (R22). -/
theorem writeOneToClear_inv (hinv : s.Inv) (hlow : s.rst = false) (hidle : s.STATUS.BUSY = false) (v : Word) :
    ({ s with STATUS := s.STATUS.writeOneToClear v } : State).Inv where
  width := hinv.width
  operands := hinv.operands
  buffers := hinv.buffers
  busyFlags h := absurd (h.symm.trans hidle) (by decide)
  idleHidden := hinv.idleHidden
  fallbackTag := hinv.fallbackTag
  errFatal h := hinv.errFatal (Bool.and_eq_true_iff.mp h).1
  primeOk := hinv.primeOk
  heldInReset h := absurd (h.symm.trans hlow) (by decide)

theorem writeLoc_inv (hinv : s.Inv) (hlow : s.rst = false) (hidle : s.STATUS.BUSY = false) {l : Loc}
    (hl : l.Implemented s.cfg) (v : Word) : (s.writeLoc v l).Inv := by
  have hs := hinv.holdsInRange
  cases l with
  | csr r =>
    cases r with
    | cmd => exact startCommand_inv hinv hlow v
    | status => exact writeOneToClear_inv hinv hlow hidle v
    | _ => exact hinv.of_same_flags (hs.congr rfl (fun _ => rfl) fun _ => rfl) rfl rfl hinv.idleHidden hlow
  | operand x j =>
    exact hinv.of_same_flags (hs.setOperand (setOperandWord_lt (hs.operands x) hl v) x) (by simp [State.writeLoc])
      (by simp [State.writeLoc]) (by simpa [State.writeLoc] using hinv.idleHidden) (by simpa [State.writeLoc] using hlow)
  | buffer x j =>
    have hfits : 4 * j + (wordBytes v).length ≤ s.cfg.nb := by
      simp only [Loc.Implemented, Config.nw] at hl
      rw [length_wordBytes, Config.nb]
      omega
    exact hinv.of_same_flags (hs.writeBytes hfits x) (by simp [State.writeLoc]) (by simp [State.writeLoc])
      (by simpa [State.writeLoc] using hinv.idleHidden) (by simpa [State.writeLoc] using hlow)
  | unmapped => exact hinv

theorem writeAt_inv (hinv : s.Inv) {l : Loc} (hl : l.Implemented s.cfg) (v : Word) : (writeAt l v s).Inv := by
  obtain ⟨_, hw⟩ | ⟨hlow, _, hw⟩ | ⟨hlow, hidle, hw⟩ := writeAt_cases l v s <;> rw [hw]
  · exact hinv
  · exact ⟨hinv.width, hinv.operands, hinv.buffers, hinv.busyFlags, hinv.idleHidden, hinv.fallbackTag, hinv.errFatal,
      hinv.primeOk, fun h => absurd (h.symm.trans hlow) (by decide)⟩
  · exact writeLoc_inv hinv hlow hidle hl v

/-! ### The RNG port and the reset input -/

/-- A request is outstanding only while a command runs and the reset input is low (R55, R142). -/
theorem State.Inv.running_of_rngReq (hinv : s.Inv) (hreq : s.rngReq = true) : running s = true := by
  refine running_iff.mpr ⟨Bool.of_not_eq_false fun hidle => ?_, Bool.of_not_eq_true fun hheld => ?_⟩
  · exact absurd (hreq.symm.trans (hinv.idleHidden hidle).2) (by decide)
  · exact absurd (hreq.symm.trans (congrArg State.rngReq (hinv.heldInReset hheld)).symm) (by simp [resetBlock, State.reset])

theorem acceptAnswer_inv (hinv : s.Inv) (a : RngAnswer) : (acceptAnswer a s).Inv := by
  unfold acceptAnswer
  split
  · obtain ⟨hbusy, hlow⟩ := running_iff.mp (hinv.running_of_rngReq ‹_›)
    exact hinv.of_same_flags (hinv.holdsInRange.congr rfl (fun _ => rfl) fun _ => rfl) rfl rfl
      (fun hidle => absurd (hidle.symm.trans hbusy) (by decide)) hlow
  · exact hinv

/-- All state at its value of R38, the reset input at any level. -/
theorem resetBlock_inv (hwidth : s.cfg.legal = true) (level : Bool) : ({ resetBlock s with rst := level } : State).Inv where
  width := hwidth
  operands x := by cases x <;> exact Nat.two_pow_pos _
  buffers x := by cases x <;> exact ⟨rfl, rfl⟩
  busyFlags h := by cases h
  idleHidden _ := ⟨rfl, rfl⟩
  fallbackTag := ⟨fun h => (by cases h), fun h => (by cases h)⟩
  errFatal h := by cases h
  primeOk _ := rfl
  heldInReset _ := rfl

theorem driveReset_inv (hinv : s.Inv) (level : Bool) : (driveReset level s).Inv := by
  unfold driveReset
  split
  · exact resetBlock_inv hinv.width level
  · exact hinv

/-- Settles O50: the reset state is what reset makes of itself. -/
theorem resetSatisfiesInv : Obligations.ResetSatisfiesInv :=
  resetBlock_inv (s := State.reset) (by decide) false

/-! ### Every step -/

theorem takeTurn_inv (hinv : s.Inv) {x : Turn} (h : takeTurn x s = .next t) : t.Inv := by
  cases x with
  | hostRead addr n =>
    obtain ⟨_, rfl⟩ := hostRead_next h
    exact readAt_inv hinv _
  | hostWrite addr n v =>
    obtain ⟨_, rfl⟩ := hostWrite_next h
    exact writeAt_inv hinv (locate_implemented _ _) v
  | rngAnswer a =>
    cases h
    exact acceptAnswer_inv hinv a
  | rngStale a =>
    cases h
    exact hinv
  | rst level =>
    cases h
    exact driveReset_inv hinv level
  | block => exact blockStep_inv hinv h

/-- Settles O51: each mover keeps the invariant, and taking the turn off the list is no concern of it. -/
theorem stepKeepsInv : Obligations.StepKeepsInv := by
  intro s t hinv h
  cases hturns : s.turns with
  | nil => exact blockStep_inv hinv (step_nil hturns ▸ h)
  | cons x rest => exact takeTurn_inv (hinv.with_own rest s.readData s.freeCount) (step_cons hturns ▸ h)

/-! ### The width and the turns -/

theorem blockStep_next (s : State) : ∃ t, blockStep s = .next t := by
  obtain ⟨_, hb⟩ | ⟨i, _, _, hb⟩ | ⟨_, _, _, hb⟩ := blockStep_cases s
  · exact ⟨_, hb⟩
  · exact hb ▸ exec_next i s
  · exact ⟨_, hb⟩

theorem blockStep_cfg_turns (h : blockStep s = .next t) : t.cfg = s.cfg ∧ t.turns = s.turns := by
  obtain ⟨_, hb⟩ | ⟨i, _, _, hb⟩ | ⟨_, _, _, hb⟩ := blockStep_cases s <;> rw [hb] at h
  · cases h
    exact ⟨rfl, rfl⟩
  · exact ⟨(exec_moveEnd h).frame.cfg, (exec_moveEnd h).frame.turns⟩
  · cases h
    exact ⟨rfl, rfl⟩

theorem writeAt_cfg_turns (l : Loc) (v : Word) (s : State) :
    (writeAt l v s).cfg = s.cfg ∧ (writeAt l v s).turns = s.turns := by
  obtain ⟨_, hw⟩ | ⟨_, _, hw⟩ | ⟨_, _, hw⟩ := writeAt_cases l v s <;> rw [hw]
  · exact ⟨rfl, rfl⟩
  · exact ⟨rfl, rfl⟩
  · obtain ⟨hcfg, -, hturns, -, -⟩ := writeLoc_frame l v s
    exact ⟨hcfg, hturns⟩

/-- Every turn leaves the width and the turns to come. -/
theorem takeTurn_cfg_turns {x : Turn} (h : takeTurn x s = .next t) : t.cfg = s.cfg ∧ t.turns = s.turns := by
  cases x with
  | hostRead addr n =>
    obtain ⟨_, rfl⟩ := hostRead_next h
    unfold readAt
    split <;> exact ⟨rfl, rfl⟩
  | hostWrite addr n v =>
    obtain ⟨_, rfl⟩ := hostWrite_next h
    exact writeAt_cfg_turns _ v s
  | rngAnswer a =>
    cases h
    unfold acceptAnswer
    split <;> exact ⟨rfl, rfl⟩
  | rngStale a =>
    cases h
    exact ⟨rfl, rfl⟩
  | rst level =>
    cases h
    unfold driveReset
    split <;> exact ⟨rfl, rfl⟩
  | block => exact blockStep_cfg_turns h

/-- Settles O52: a step is a turn taken off the list, or with no turn listed the block's move. -/
theorem stepKeepsTheWidth : Obligations.StepKeepsTheWidth := by
  intro s t h
  cases hturns : s.turns with
  | nil =>
    obtain ⟨hcfg, hkeep⟩ := blockStep_cfg_turns (step_nil hturns ▸ h)
    exact ⟨hcfg, hkeep.trans hturns⟩
  | cons x rest => exact takeTurn_cfg_turns (s := { s with turns := rest }) (step_cons hturns ▸ h)

/-! ### Refusals -/

/-- A turn is refused only for a host access that is no operation (R44). -/
theorem takeTurn_next_or_refused (x : Turn) (s : State) :
    (∃ t, takeTurn x s = .next t) ∨
    ∃ r addr n, takeTurn x s = .refused r ∧ ¬ (n = 4 ∧ addr % 4 = 0 ∧ addr < 0x1000) ∧
      (x = .hostRead addr n ∨ ∃ v, x = .hostWrite addr n v) := by
  cases x with
  | hostRead addr n =>
    by_cases hlegal : n = 4 ∧ addr % 4 = 0 ∧ addr < 0x1000
    · obtain ⟨rfl, haddr⟩ := hlegal
      exact .inl ⟨_, hostRead_legal haddr s⟩
    · obtain ⟨r, hr, _⟩ := hostAccess_illegal hlegal 0#32 s
      exact .inr ⟨r, addr, n, hr, hlegal, .inl rfl⟩
  | hostWrite addr n v =>
    by_cases hlegal : n = 4 ∧ addr % 4 = 0 ∧ addr < 0x1000
    · obtain ⟨rfl, haddr⟩ := hlegal
      exact .inl ⟨_, hostWrite_legal haddr v s⟩
    · obtain ⟨r, _, hr⟩ := hostAccess_illegal hlegal v s
      exact .inr ⟨r, addr, n, hr, hlegal, .inr ⟨v, rfl⟩⟩
  | rngAnswer a => exact .inl ⟨_, rfl⟩
  | rngStale a => exact .inl ⟨_, rfl⟩
  | rst level => exact .inl ⟨_, rfl⟩
  | block => exact .inl (blockStep_next s)

/-- Settles O53: the block's move always answers, and of the turns only an illegal access does not. -/
theorem stepRefusesOnlyBadAccesses : Obligations.StepRefusesOnlyBadAccesses := by
  intro s
  cases hturns : s.turns with
  | nil => exact .inl (step_nil hturns ▸ blockStep_next s)
  | cons x rest =>
    rw [step_cons hturns]
    obtain hnext | ⟨r, addr, n, hr, hbad, hx⟩ := takeTurn_next_or_refused x { s with turns := rest }
    · exact .inl hnext
    · refine .inr ⟨r, addr, n, hr, hbad, ?_⟩
      obtain rfl | ⟨v, rfl⟩ := hx
      · exact .inl ⟨rest, rfl⟩
      · exact .inr ⟨v, rest, rfl⟩

/-! ### While the reset input is asserted -/

/-- While the reset input is high only the value a read returns changes, unless the turn releases it (R141). -/
theorem takeTurn_held (hinv : s.Inv) (hheld : s.rst = true) {x : Turn} (hrelease : x ≠ .rst false)
    (h : takeTurn x s = .next t) : { t with readData := s.readData } = s := by
  have hrun : ¬ running s = true := fun hrun => absurd (hheld.symm.trans (running_iff.mp hrun).2) (by decide)
  cases x with
  | hostRead addr n =>
    obtain ⟨_, rfl⟩ := hostRead_next h
    have hidle : s.STATUS.BUSY = false := congrArg (·.STATUS.BUSY) (hinv.heldInReset hheld).symm
    simp [readAt, hidle]
  | hostWrite addr n v =>
    obtain ⟨_, rfl⟩ := hostWrite_next h
    rw [writeAt, if_pos hheld]
  | rngAnswer a =>
    cases h
    rw [acceptAnswer, if_neg fun hreq => hrun (hinv.running_of_rngReq hreq)]
  | rngStale a =>
    cases h
    rfl
  | rst level =>
    cases level with
    | false => exact absurd rfl hrelease
    | true =>
      cases h
      rw [driveReset, if_pos (Bool.true_or _), hinv.heldInReset hheld, ← hheld]
  | block =>
    have hstay : blockStep s = .next s := if_neg hrun
    cases hstay.symm.trans h
    rfl

/-- Settles O49: the values of R38 are what reset writes, and a block held in reset has them already. -/
theorem resetAbandonsEverything : Obligations.ResetAbandonsEverything := by
  intro s rest cleared
  refine ⟨rfl, fun hheld => ?released, rfl, fun x => rfl, fun x t hinv hheld hrelease h => ?held⟩
  case released =>
    rw [step_cons rfl]
    simp [takeTurn, driveReset, hheld, resetBlock, cleared]
  case held =>
    have hcleared : cleared true = { s with turns := rest } := by
      rw [show cleared true = { resetBlock s with rst := true, turns := rest } from rfl, hinv.heldInReset hheld, ← hheld]
    rw [hcleared]
    exact takeTurn_held (hinv.with_own rest s.readData s.freeCount) hheld hrelease h

end

end Sys2Proof.Machine

/-! PROOFS. The decoder as the inverse of the encoder (R60, R62), the block's move on a latched command (R120), and what host
accesses do to the registers, the unmapped offsets and the interrupt line (R20, R46, R47, R132). -/

namespace Sys2Proof.Machine

/-! ### Command words -/

/-- Settles O1: `decode_encode` and `eq_encode_of_decode` are the two directions. -/
theorem wordDecodesOnlyToItsCommand : Obligations.WordDecodesOnlyToItsCommand := by
  intro w i
  refine ⟨eq_encode_of_decode, ?_⟩
  rintro rfl
  exact decode_encode i

/-- Settles O2: fourteen words, each decoded. -/
theorem tableWordsDecode : Obligations.TableWordsDecode := by
  unfold Obligations.TableWordsDecode
  decide

/-- Settles O4: the block moves in both cases, and `blockStep_command` is its move. -/
theorem stepRunsTheLatchedCommand : Obligations.StepRunsTheLatchedCommand := by
  intro s i hbusy hrst hdec
  refine ⟨fun hturns => ?nobody, fun rest hturns => ?block⟩
  case nobody => rw [step_nil hturns, blockStep_command (by simp [running, hbusy, hrst]) hdec]
  case block =>
    rw [step_cons hturns]
    exact blockStep_command (by simp [running, hbusy, hrst]) hdec

/-- Settles O25: the answer's turn is `acceptAnswer`. -/
theorem answersGoToTheOutstandingRequest : Obligations.AnswersGoToTheOutstandingRequest := by
  intro s x rest
  refine ⟨fun hreq => ?outstanding, fun hreq => ?dropped⟩
  case outstanding =>
    rw [step_cons rfl]
    simp [takeTurn, acceptAnswer, hreq]
  case dropped =>
    rw [step_cons rfl]
    simp [takeTurn, acceptAnswer, hreq]

/-! ### The control and status registers while idle -/

/-- Settles O36: each offset finds its register, whose value is exact while idle; the words of STATUS, RC and IEN are
those of `word_eq_ofNat`. -/
theorem controlRegistersReadAtTheirOffsets : Obligations.ControlRegistersReadAtTheirOffsets := by
  intro s rest hidle reads
  have exact_of {addr : Nat} {l : Loc} {w : Word} (haddr : addr % 4 = 0 ∧ addr < 0x1000) (hloc : locate s.cfg addr = l)
      (hw : s.readLoc l = w) : reads addr w :=
    hw ▸ step_hostRead_exact rest haddr hloc (by simp [hidle])
  have hstatus := s.STATUS.word_eq_ofNat
  rw [hidle, Bool.toNat_false, Nat.zero_add] at hstatus
  exact ⟨exact_of (by decide) rfl rfl, exact_of (l := .csr .status) (by decide) rfl hstatus,
    exact_of (by decide) rfl s.RC.word_eq_ofNat, exact_of (by decide) rfl s.IEN.word_eq_ofNat,
    exact_of (by decide) rfl rfl, exact_of (by decide) rfl rfl, exact_of (by decide) rfl rfl, exact_of (by decide) rfl rfl,
    exact_of (by decide) rfl rfl, exact_of (by decide) rfl rfl, exact_of (by decide) rfl rfl⟩

/-- Settles O37: each offset finds its register, and an idle write is `writeLoc` there. -/
theorem controlRegistersTakeWrites : Obligations.ControlRegistersTakeWrites := by
  intro s v rest hidle hrst writes
  have at_loc {addr : Nat} {t : State} (l : Loc) (haddr : addr % 4 = 0 ∧ addr < 0x1000) (hloc : locate s.cfg addr = l)
      (ht : s.writeLoc v l = t) : writes addr t := by
    have hw := step_hostWrite_idle v rest haddr hloc hrst hidle
    rwa [writeLoc_turns_comm, ht] at hw
  exact ⟨at_loc (.csr .status) (by decide) rfl rfl, at_loc (.csr .rc) (by decide) rfl rfl,
    at_loc (.csr .ien) (by decide) rfl rfl, at_loc (.csr .k) (by decide) rfl rfl,
    at_loc (.csr .bitlen) (by decide) rfl rfl, at_loc (.csr .blksize) (by decide) rfl rfl,
    at_loc (.csr .dlen) (by decide) rfl rfl, at_loc (.csr .fbcnt) (by decide) rfl rfl,
    at_loc (.csr .cap) (by decide) rfl rfl, at_loc (.csr .rndcnt) (by decide) rfl rfl⟩

/-! ### Unmapped offsets -/

/-- No register stands at word 11 or above (R20). -/
theorem csrAt_unmapped {i : Nat} (hi : 11 ≤ i) : csrAt i = .unmapped := by
  obtain ⟨k, rfl⟩ := Nat.exists_eq_add_of_le' hi
  rfl

theorem locate_unmapped {c : Config} {addr : Nat} (h : UnmappedOffset c addr) : locate c addr = .unmapped := by
  unfold locate
  obtain ⟨hlow, hhigh⟩ | ⟨hlow, -, hword⟩ := h
  · rw [if_pos hhigh, csrAt_unmapped (by omega)]
  · rw [if_neg (by omega), if_neg (by omega)]

/-- Settles O40: nothing stands there, so a read is 0 and an idle write does nothing. -/
theorem unmappedOffsetsReadZero : Obligations.UnmappedOffsetsReadZero := by
  intro s addr v rest halign hunmapped
  have hloc := locate_unmapped hunmapped
  have haddr : addr % 4 = 0 ∧ addr < 0x1000 := by
    refine ⟨halign, ?_⟩
    obtain ⟨_, _⟩ | ⟨_, _, _⟩ := hunmapped <;> omega
  exact ⟨step_hostRead_exact rest haddr hloc (by simp [Loc.openWhileBusy]),
    fun hrst hidle => step_hostWrite_idle v rest haddr hloc hrst hidle,
    fun hrst hbusy => step_hostWrite_busy v rest haddr hrst hbusy⟩

/-! ### Reads without effect, writes that repeat -/

/-- A read changes the model's own read fields alone (R47). -/
theorem readAt_own (l : Loc) (s : State) :
    { readAt l s with readData := s.readData, freeCount := s.freeCount } = s := by
  unfold readAt
  split <;> rfl

theorem writeOneToClear_writeOneToClear (f : Status) (v : Word) :
    (f.writeOneToClear v).writeOneToClear v = f.writeOneToClear v := by
  simp [Status.writeOneToClear]

theorem setOperandWord_setOperandWord (x j : Nat) (v : Word) :
    setOperandWord (setOperandWord x j v) j v = setOperandWord x j v := by
  refine Nat.eq_of_testBit_eq fun b => ?_
  rw [testBit_setOperandWord, testBit_setOperandWord]
  split <;> rfl

/-- Two canonical buffers with the same bytes are equal, so the second write changes nothing. -/
theorem setBufferWord_setBufferWord {m : Memory} (hm : m.wf = true) (j : Nat) (v : Word) :
    setBufferWord (setBufferWord m j v) j v = setBufferWord m j v := by
  have hwf := Memory.wf_setBufferWord m j v hm
  refine Memory.eq_of_wf _ _ (Memory.wf_setBufferWord _ j v hwf) hwf fun a => ?_
  rw [read_setBufferWord, read_setBufferWord]
  split <;> rfl

/-- An idle write but one to CMD repeats. -/
theorem writeLoc_writeLoc {s : State} (hbuffers : ∀ x, (s.buffer x).wf = true) {l : Loc} (hl : l ≠ .csr .cmd) (v : Word) :
    (s.writeLoc v l).writeLoc v l = s.writeLoc v l := by
  cases l with
  | csr r =>
    cases r with
    | cmd => exact absurd rfl hl
    | status => simp only [State.writeLoc, writeOneToClear_writeOneToClear]
    | _ => rfl
  | operand x j => simp [State.writeLoc, setOperand_setOperand, setOperandWord_setOperandWord]
  | buffer x j => simp [State.writeLoc, setBuffer_setBuffer, setBufferWord_setBufferWord (hbuffers x)]
  | unmapped => rfl

/-- An idle write but one to CMD leaves the block idle. -/
theorem writeLoc_BUSY {l : Loc} (hl : l ≠ .csr .cmd) (v : Word) (s : State) :
    (s.writeLoc v l).STATUS.BUSY = s.STATUS.BUSY := by
  cases l with
  | csr r =>
    cases r with
    | cmd => exact absurd rfl hl
    | _ => rfl
  | operand x j => simp [State.writeLoc]
  | buffer x j => simp [State.writeLoc]
  | unmapped => rfl

theorem writeAt_writeAt {s : State} (hbuffers : ∀ x, (s.buffer x).wf = true) {l : Loc} (hl : l ≠ .csr .cmd) (v : Word) :
    writeAt l v (writeAt l v s) = writeAt l v s := by
  obtain ⟨hheld, hw⟩ | ⟨hlow, hbusy, hw⟩ | ⟨hlow, hidle, hw⟩ := writeAt_cases l v s
  · rw [hw, hw]
  · rw [hw]
    simp [writeAt, hlow, hbusy]
  · obtain ⟨-, hrst, -⟩ := writeLoc_frame l v s
    rw [hw, writeAt, if_neg (by simp [hrst, hlow]), if_neg (by simp [writeLoc_BUSY hl, hidle]),
      writeLoc_writeLoc hbuffers hl]

theorem writeAt_turns_comm (l : Loc) (v : Word) (s : State) (ts : List Turn) :
    writeAt l v { s with turns := ts } = { writeAt l v s with turns := ts } := by
  unfold writeAt
  split
  · rfl
  · split
    · rfl
    · exact writeLoc_turns_comm l v s ts

/-- CMD stands at word 0, offset 0x000, and nowhere else (R20). -/
theorem csrAt_cmd {i : Nat} (h : csrAt i = .csr .cmd) : i = 0 := by
  unfold csrAt at h
  split at h <;> cases h
  rfl

theorem locate_ne_cmd {c : Config} {addr : Nat} (h : 4 ≤ addr) : locate c addr ≠ .csr .cmd := by
  intro hloc
  have := csrAt_cmd (locate_csr hloc).2
  omega

/-- The same write once more changes nothing, whatever turns are left. -/
theorem hostWrite_hostWrite {s t u : State} {addr n : Nat} {v : Word} {rest : List Turn}
    (hbuffers : ∀ x, (s.buffer x).wf = true) (hoffset : 4 ≤ addr) (hfirst : hostWrite addr n v s = .next t)
    (hsecond : hostWrite addr n v { t with turns := rest } = .next u) : u = { t with turns := rest } := by
  obtain ⟨_, rfl⟩ := hostWrite_next hfirst
  obtain ⟨_, rfl⟩ := hostWrite_next hsecond
  have hrepeat : writeAt (locate (writeAt (locate s.cfg addr) v s).cfg addr) v (writeAt (locate s.cfg addr) v s) =
      writeAt (locate s.cfg addr) v s := by
    rw [(writeAt_cfg_turns _ v s).1, writeAt_writeAt hbuffers (locate_ne_cmd hoffset)]
  rw [writeAt_turns_comm, hrepeat]

/-- Settles O42: a read is `readAt_own`, and the second of two equal writes is `hostWrite_hostWrite`. -/
theorem readsHaveNoEffectAndWritesRepeat : Obligations.ReadsHaveNoEffectAndWritesRepeat := by
  refine ⟨fun s t addr n rest h => ?read, fun s t u addr n v rest hinv hoffset hfirst hsecond => ?write⟩
  case read =>
    obtain ⟨_, rfl⟩ := hostRead_next (s := { s with turns := rest }) h
    exact readAt_own _ { s with turns := rest }
  case write =>
    obtain ⟨-, hturns⟩ := stepKeepsTheWidth _ _ hfirst
    rw [step_cons hturns] at hsecond
    exact hostWrite_hostWrite (s := { s with turns := .hostWrite addr n v :: rest }) (fun x => (hinv.buffers x).1) hoffset
      hfirst hsecond

/-! ### The interrupt line -/

theorem IRQ_eq_true_iff (s : State) : s.IRQ = true ↔
    (s.IEN.IE_DONE = true ∧ s.STATUS.DONE = true) ∨ (s.IEN.IE_ERR = true ∧ s.STATUS.ERR = true) := by
  simp [State.IRQ]

/-- Settles O45: an idle write to IEN or STATUS sets or clears a term of `IRQ_eq_true_iff`, in which WRBUSY does not stand. -/
theorem irqIsALevel : Obligations.IrqIsALevel := by
  refine ⟨IRQ_eq_true_iff, fun s v rest hidle hrst => ⟨fun hdone hbit => ?enabled, fun hier hbit => ?cleared, fun x => rfl⟩⟩
  case enabled =>
    refine ⟨_, step_hostWrite_idle (l := .csr .ien) v rest (by decide) rfl hrst hidle, ?_, rfl⟩
    exact (IRQ_eq_true_iff _).mpr (.inl ⟨hbit, hdone⟩)
  case cleared =>
    refine ⟨_, step_hostWrite_idle (l := .csr .status) v rest (by decide) rfl hrst hidle, ?_⟩
    simp [State.IRQ, State.writeLoc, Status.writeOneToClear, hier, hbit]

end Sys2Proof.Machine

/-! PROOFS. The derived facts of the modular arithmetic: the identities of the Montgomery product (R85), the reduction without
division by n (R86) and the round trip of RSA (R94). -/

namespace Sys2Proof.Machine

/-! ### The Montgomery product and the radix -/

section
variable {maxbits a b n : Nat} (hodd : n % 2 = 1)
include hodd

/-- The radix undoes the division by it that montpro makes. -/
theorem montpro_mul_radix : montpro maxbits a b n * 2 ^ maxbits ≡ a * b [MOD n] :=
  calc montpro maxbits a b n * 2 ^ maxbits
      ≡ a * b * radixInverse maxbits n * 2 ^ maxbits [MOD n] := (Nat.mod_modEq _ n).mul_right _
    _ = a * b * (2 ^ maxbits * radixInverse maxbits n) := by ring
    _ ≡ a * b * 1 [MOD n] := (two_pow_mul_radixInverse hodd maxbits).mul_left _
    _ = a * b := Nat.mul_one _

/-- The radix can be cancelled, so a number that gives a * b with it is the Montgomery product of a and b. -/
theorem montpro_eq_mod {x : Nat} (hx : x * 2 ^ maxbits ≡ a * b [MOD n]) : montpro maxbits a b n = x % n :=
  calc montpro maxbits a b n
      = a * b * radixInverse maxbits n % n := rfl
    _ = x * 2 ^ maxbits * radixInverse maxbits n % n := (hx.symm.mul_right _)
    _ = x * (2 ^ maxbits * radixInverse maxbits n) % n := by rw [Nat.mul_assoc]
    _ = x * 1 % n := (two_pow_mul_radixInverse hodd maxbits).mul_left x
    _ = x % n := by rw [Nat.mul_one]

end

/-- Settles O16: the first identity is `montpro_mul_radix`; the others are `montpro_eq_mod` at a * b, at a * b times the
radix and at a. -/
theorem montgomeryIdentities : Obligations.MontgomeryIdentities := by
  intro maxbits a b n hodd
  refine ⟨montpro_mul_radix hodd, montpro_eq_mod hodd ?back, montpro_eq_mod hodd ?product, montpro_eq_mod hodd ?plain⟩
  case back =>
    calc a * b * 2 ^ maxbits
        ≡ montpro maxbits a b n * 2 ^ maxbits * 2 ^ maxbits [MOD n] := (montpro_mul_radix hodd).symm.mul_right _
      _ = montpro maxbits a b n * (2 ^ maxbits * 2 ^ maxbits) := Nat.mul_assoc _ _ _
      _ ≡ montpro maxbits a b n * (2 ^ maxbits * 2 ^ maxbits % n) [MOD n] := (Nat.mod_modEq _ n).symm.mul_left _
  case product =>
    calc a * b * 2 ^ maxbits * 2 ^ maxbits
        = a * 2 ^ maxbits * (b * 2 ^ maxbits) := by ring
      _ ≡ a * 2 ^ maxbits % n * (b * 2 ^ maxbits % n) [MOD n] :=
        (Nat.mod_modEq _ n).symm.mul (Nat.mod_modEq _ n).symm
  case plain =>
    calc a * 2 ^ maxbits
        ≡ a * 2 ^ maxbits % n [MOD n] := (Nat.mod_modEq _ n).symm
      _ = a * 2 ^ maxbits % n * 1 := (Nat.mul_one _).symm

/-- The factor m of R86 makes the sum divisible by the radix: np is the inverse of -n. -/
theorem redc_sum_dvd {radix n np : Nat} (T : Nat) (hnp : n * np + 1 ≡ 0 [MOD radix]) :
    T + T % radix * np % radix * n ≡ 0 [MOD radix] :=
  calc T + T % radix * np % radix * n
      ≡ T + T * np * n [MOD radix] :=
        (((Nat.mod_modEq _ radix).trans ((Nat.mod_modEq T radix).mul_right np)).mul_right n).add_left T
    _ = T * (n * np + 1) := by ring
    _ ≡ T * 0 [MOD radix] := hnp.mul_left T
    _ = 0 := Nat.mul_zero T

theorem mod_eq_sub_or_self {t n : Nat} (ht : t < 2 * n) : t % n = if n ≤ t then t - n else t := by
  split
  · rw [Nat.mod_eq_sub_mod ‹_›, Nat.mod_eq_of_lt (by omega)]
  · exact Nat.mod_eq_of_lt (by omega)

/-- Settles O17: t times the radix is the sum, which is a * b modulo n, so t is the Montgomery product but for one n. -/
theorem redcGivesTheMontgomeryProduct : Obligations.RedcGivesTheMontgomeryProduct := by
  intro maxbits a b n np hodd _ hnp hsmall m t
  have hexact : (a * b + m * n) % 2 ^ maxbits = 0 := redc_sum_dvd (a * b) (hnp.trans (Nat.zero_mod _).symm)
  have ht : t < 2 * n := by
    have hm : m * n < 2 ^ maxbits * n := Nat.mul_lt_mul_of_pos_right (Nat.mod_lt _ (Nat.two_pow_pos _)) (by omega)
    refine Nat.div_lt_of_lt_mul ?_
    rw [Nat.mul_left_comm]
    omega
  refine ⟨hexact, ht, ?_⟩
  have hradix : t * 2 ^ maxbits ≡ a * b [MOD n] := by
    rw [Nat.div_mul_cancel (Nat.dvd_of_mod_eq_zero hexact)]
    exact Nat.add_mul_modulus_modEq_iff.mpr rfl
  rw [montpro_eq_mod hodd hradix, mod_eq_sub_or_self ht]

/-! ### RSA -/

/-- Fermat's little theorem. -/
theorem pow_sub_one_modEq_one {p a : Nat} (hp : p.Prime) (ha : ¬ p ∣ a) : a ^ (p - 1) ≡ 1 [MOD p] :=
  Nat.totient_prime hp ▸ Nat.ModEq.pow_totient ((Nat.Prime.coprime_iff_not_dvd hp).mpr ha).symm

/-- A power with exponent 1 modulo p - 1 is the base, modulo a prime p. -/
theorem pow_modEq_self {p k : Nat} (hp : p.Prime) (hpos : 1 ≤ k) (hk : k ≡ 1 [MOD p - 1]) (a : Nat) :
    a ^ k ≡ a [MOD p] := by
  obtain ⟨c, hc⟩ := (Nat.modEq_iff_dvd' hpos).mp hk.symm
  obtain rfl : k = (p - 1) * c + 1 := by omega
  by_cases hdvd : p ∣ a
  · have hpow : p ∣ a ^ ((p - 1) * c + 1) := hdvd.trans (dvd_pow_self a (Nat.succ_ne_zero _))
    exact (Nat.modEq_zero_iff_dvd.mpr hpow).trans (Nat.modEq_zero_iff_dvd.mpr hdvd).symm
  · calc a ^ ((p - 1) * c + 1)
        = (a ^ (p - 1)) ^ c * a := by rw [Nat.pow_succ, Nat.pow_mul]
      _ ≡ 1 ^ c * a [MOD p] := ((pow_sub_one_modEq_one hp hdvd).pow c).mul_right a
      _ = a := by rw [Nat.one_pow, Nat.one_mul]

/-- With distinct primes (p - 1) * (q - 1) is not 1, so an exponent of 1 modulo it is not 0. -/
theorem one_le_of_modEq_one {p q k : Nat} (hne : p ≠ q) (hk : k ≡ 1 [MOD (p - 1) * (q - 1)]) : 1 ≤ k := by
  refine Nat.one_le_iff_ne_zero.mpr fun hzero => ?_
  rw [hzero] at hk
  obtain ⟨hp1, hq1⟩ := mul_eq_one.mp (Nat.dvd_one.mp (Nat.modEq_zero_iff_dvd.mp hk.symm))
  omega

/-- The round trip of RSA, modulo each prime and so modulo their product. -/
theorem pow_modEq_self_of_rsa {p q k : Nat} (hp : p.Prime) (hq : q.Prime) (hne : p ≠ q)
    (hk : k ≡ 1 [MOD (p - 1) * (q - 1)]) (a : Nat) : a ^ k ≡ a [MOD p * q] := by
  have hpos := one_le_of_modEq_one hne hk
  exact (Nat.modEq_and_modEq_iff_modEq_mul ((Nat.coprime_primes hp hq).mpr hne)).mp
    ⟨pow_modEq_self hp hpos (hk.of_mul_right _) a, pow_modEq_self hq hpos (hk.of_mul_left _) a⟩

/-- What MODEXP of a non-zero modulus leaves in R and in N. -/
theorem modexp_R_N {s t : State} (hpos : 1 ≤ s.N) (h : exec .modexp s = .next t) :
    t.R = s.A ^ s.E % s.N ∧ t.N = s.N := by
  rw [exec_modexp_of_ne_zero (Nat.one_le_iff_ne_zero.mp hpos)] at h
  cases h
  exact ⟨modPow_eq hpos _ _, rfl⟩

/-- Settles O20: both commands compute powers modulo N, and the exponents multiply to 1 modulo (p - 1) * (q - 1). -/
theorem modexpDecryptsWhatItEncrypted : Obligations.ModexpDecryptsWhatItEncrypted := by
  intro s t u p q d hp hq hne hN hkey hlt hencrypt hdecrypt
  have hpos : 1 ≤ s.N := Nat.one_le_of_lt hlt
  obtain ⟨hR, hkeep⟩ := modexp_R_N hpos hencrypt
  obtain ⟨hresult, -⟩ := modexp_R_N (s := { t with A := t.R, E := d }) (hkeep ▸ hpos) hdecrypt
  calc u.R
      = (s.A ^ s.E % s.N) ^ d % s.N := by rw [hresult, hR, hkeep]
    _ = s.A ^ (s.E * d) % s.N := by rw [← Nat.pow_mod, Nat.pow_mul]
    _ = s.A % s.N := hN ▸ pow_modEq_self_of_rsa hp hq hne hkey s.A
    _ = s.A := Nat.mod_eq_of_lt hlt

end Sys2Proof.Machine

/-! PROOFS. The Miller-Rabin test on a prime (R102) and its corner cases (R103). -/

namespace Sys2Proof.Machine

/-! ### A round on a prime -/

section
variable {n a : Nat}

/-- 1 has no square roots modulo a prime but 1 and -1. -/
theorem eq_one_or_of_sq_mod_eq_one {x : Nat} (hn : n.Prime) (hx : x < n) (hsq : x * x % n = 1) : x = 1 ∨ x = n - 1 := by
  have hpos : x ≠ 0 := by
    rintro rfl
    rw [Nat.zero_mul, Nat.zero_mod] at hsq
    cases hsq
  have hdvd : n ∣ (x - 1) * (x + 1) := by
    have hfactor : (x - 1) * (x + 1) = x * x - 1 := by
      obtain ⟨y, rfl⟩ := Nat.exists_eq_succ_of_ne_zero hpos
      simp only [Nat.succ_eq_add_one, Nat.add_sub_cancel]
      rw [Nat.add_mul, Nat.mul_add, Nat.mul_add]
      omega
    rw [hfactor]
    exact Nat.dvd_of_mod_eq_zero (Nat.sub_mod_eq_zero_of_mod_eq (by rw [hsq, Nat.mod_eq_of_lt hn.one_lt]))
  obtain hdvd | hdvd := hn.dvd_mul.mp hdvd
  · have := Nat.eq_zero_of_dvd_of_lt hdvd (by omega)
    omega
  · have := Nat.le_of_dvd (Nat.succ_pos x) hdvd
    omega

/-- Where the last square is 1, the powers before it end in 1 or meet n - 1: going back from a 1 there is a 1 or n - 1. -/
theorem passes_of_last_square_eq_one (hn : n.Prime) (r d : Nat) (hlast : a ^ (2 ^ r * d) % n = 1) :
    a ^ d % n = 1 ∨ a ^ d % n = n - 1 ∨ SquaringPasses n a d (r - 1) := by
  induction r generalizing d with
  | zero =>
    rw [Nat.pow_zero, Nat.one_mul] at hlast
    exact .inl hlast
  | succ r ih =>
    rw [Nat.pow_succ, Nat.mul_assoc] at hlast
    by_cases hone : a ^ (2 * d) % n = 1
    · rw [← modmul_pow_self] at hone
      exact or_assoc.mp (.inl (eq_one_or_of_sq_mod_eq_one hn (Nat.mod_lt _ hn.pos) hone))
    · cases r with
      | zero =>
        rw [Nat.pow_zero, Nat.one_mul] at hlast
        exact absurd hlast hone
      | succ r =>
        refine .inr (.inr ((squaringPasses_succ n a d r).mpr ?_))
        obtain h | h | h := ih (2 * d) hlast
        · exact absurd h hone
        · exact .inl h
        · exact .inr ⟨hone, h⟩

/-- A prime passes the round of every witness it does not divide. -/
theorem roundPasses_of_prime (hn : n.Prime) (ha : ¬ n ∣ a) : RoundPasses n a := by
  obtain ⟨r, d, hodd, hm⟩ := Nat.exists_eq_two_pow_mul_odd (n := n - 1) (Nat.sub_ne_zero_of_lt hn.one_lt)
  have hfermat : a ^ (2 ^ r * d) % n = 1 := by
    rw [← hm, pow_sub_one_modEq_one hn ha, Nat.mod_eq_of_lt hn.one_lt]
  exact ⟨r, d, hm, Nat.odd_iff.mp hodd, passes_of_last_square_eq_one hn r d hfermat⟩

/-- The witnesses of R98 are below n and not 0. -/
theorem roundPasses_of_prime_of_range (hn : n.Prime) (hlow : 2 ≤ a) (hhigh : a ≤ n - 2) : RoundPasses n a :=
  roundPasses_of_prime hn (Nat.not_dvd_of_pos_of_lt (by omega) (by omega))

theorem witness_range (hn : 5 ≤ n) (nb i : Nat) (bytes : List Byte) :
    2 ≤ witness n nb i bytes ∧ witness n nb i bytes ≤ n - 2 := by
  have : drawnValue ((bytes.drop (nb * i)).take nb) % (n - 3) < n - 3 := Nat.mod_lt _ (by omega)
  unfold witness
  omega

/-! ### The test on a prime -/

theorem rounds_of_all_pass {r d : Nat} (hn : 5 ≤ n) (hpass : ∀ a, 2 ≤ a → a ≤ n - 2 → roundPasses n r d a = true)
    {k passed : Nat} {ans rest : List RngAnswer} {v : Verdict × Nat} (h : rounds n r d k passed ans = .done v rest) :
    v = (.probablyPrime, passed + k) := by
  induction k generalizing passed ans with
  | zero =>
    cases h
    rfl
  | succ k ih =>
    rw [rounds] at h
    cases hdraw : randomInRange 2 (n - 2) ans with
    | done a left =>
      obtain ⟨hlow, hhigh⟩ := randomInRange_done (by omega) hdraw
      rw [hdraw, Draw.andThen_done, if_pos (hpass a hlow hhigh)] at h
      rw [ih h, Nat.add_assoc, Nat.add_comm 1]
    | unavailable =>
      rw [hdraw] at h
      cases h
    | wait =>
      rw [hdraw] at h
      cases h

/-- The test of a prime that ends reports it, with all K rounds passed but for 2 and 3. -/
theorem millerRabin_of_prime (hn : n.Prime) {k : Nat} {ans rest : List RngAnswer} {v : Verdict × Nat}
    (h : millerRabin n k ans = .done v rest) : v = (.probablyPrime, if n ≤ 3 then 0 else k) := by
  by_cases hsmall : n ≤ 3
  · have htwo := hn.two_le
    rw [millerRabin_of_precheck (.inl hsmall), if_pos (by omega)] at h
    cases h
    rw [if_pos hsmall]
  · have hodd := hn.eq_two_or_odd
    rw [millerRabin, if_neg (by omega), if_neg (by omega), if_neg (by omega)] at h
    rw [if_neg hsmall, rounds_of_all_pass (by omega) (fun a hlow hhigh => ?_) h, Nat.zero_add]
    exact (roundPasses_decompose_iff hn.two_le a).mpr (roundPasses_of_prime_of_range hn hlow hhigh)

end

/-- Settles O27: where the command completes, `millerRabin_of_prime` is what it records. -/
theorem mrtestNeverRejectsAPrime : Obligations.MrtestNeverRejectsAPrime := by
  intro s t hprime h
  cases htest : millerRabin s.N s.K.toNat s.drawn with
  | wait =>
    cases (exec_mrtest_of_wait htest).symm.trans h
    exact .inl rfl
  | unavailable =>
    cases (exec_mrtest_of_unavailable htest).symm.trans h
    exact .inr (.inl rfl)
  | done v rest =>
    obtain rfl := millerRabin_of_prime hprime htest
    cases (exec_mrtest_of_done htest).symm.trans h
    refine .inr (.inr ⟨rfl, rfl, ?_⟩)
    split <;> simp

/-! ### The corner cases -/

/-- No round needed: the odd N is reported, whatever bytes are at hand. -/
theorem millerRabin_zero_rounds {n : Nat} (hn : 5 ≤ n) (hodd : n % 2 = 1) (ans : List RngAnswer) :
    millerRabin n 0 ans = .done (.probablyPrime, 0) ans := by
  rw [millerRabin, if_neg (by omega), if_neg (by omega), if_neg (by omega), rounds]

/-- A prime with a one-byte witness: K bytes are drawn, one for each round. -/
theorem mrtest_of_prime_of_one_byte {s : State} {len : Nat} {bytes : List Byte} (hprime : s.N.Prime) (hn : 5 ≤ s.N)
    (hlen : IsBitLength (s.N - 3) len) (hbyte : 1 = (len + 7) / 8) (hdrawn : s.drawn = bytes.map .ok) :
    (bytes.length = s.K.toNat → exec .mrtest s = .next { s with
      RNDCNT := s.K, RC := .ok, drawn := [], rngReq := false
      STATUS := { s.STATUS with BUSY := false, DONE := true, PRIME := true } }) ∧
    (bytes.length < s.K.toNat → exec .mrtest s = .next { s with rngReq := true }) := by
  obtain ⟨-, hresult⟩ := mrtestResult
  obtain ⟨-, htest⟩ := hresult s
  have hodd : s.N % 2 = 1 := hprime.eq_two_or_odd.resolve_left (by omega)
  obtain ⟨hall, -, hends⟩ := htest len 1 bytes hn hodd hlen hbyte
  have hpass (j : Nat) : RoundPasses s.N (witness s.N 1 j bytes) := by
    obtain ⟨hlow, hhigh⟩ := witness_range hn 1 j bytes
    exact roundPasses_of_prime_of_range hprime hlow hhigh
  refine ⟨fun hlength => hall (by omega) hdrawn fun j _ => hpass j, fun hshort => ?_⟩
  obtain ⟨hasks, -⟩ := hends bytes.length hshort (by omega) (by omega) fun j _ => hpass j
  exact hasks hdrawn

/-- 9 has no strong liar among its witnesses 2..7. -/
theorem not_roundPasses_nine {a : Nat} (hlow : 2 ≤ a) (hhigh : a ≤ 7) : ¬ RoundPasses 9 a := by
  rw [← roundPasses_decompose_iff (by decide)]
  interval_cases a <;> decide

/-- Settles O28: the pre-checks and the rounds are those of O26; 5 and 7 pass every round and 9 none. -/
theorem mrtestCornerCases : Obligations.MrtestCornerCases := by
  intro s ends asks
  obtain ⟨-, hresult⟩ := mrtestResult
  obtain ⟨hprecheck, htest⟩ := hresult s
  have checked {prime : Bool} (hcheck : s.N ≤ 3 ∨ s.N % 2 = 0) (hverdict : decide (s.N = 2 ∨ s.N = 3) = prime) :
      ends prime 0#32 := hverdict ▸ hprecheck hcheck
  refine ⟨fun hN => ?zeroOne, fun hN => ?twoThree, fun heven hfour => ?even, fun hodd hn hK => ?noRounds,
    fun hN bytes hdrawn => ?fiveSeven, fun hN hK => ?nine⟩
  case zeroOne => exact checked (.inl (by omega)) (decide_eq_false (by omega))
  case twoThree => exact checked (.inl (by omega)) (decide_eq_true hN)
  case even => exact checked (.inr heven) (decide_eq_false (by omega))
  case noRounds =>
    refine exec_mrtest_of_done (rest := s.drawn) (verdict := .probablyPrime) ?_
    rw [hK]
    exact millerRabin_zero_rounds hn hodd _
  case fiveSeven =>
    obtain hN | hN := hN
    · exact mrtest_of_prime_of_one_byte (len := 2) (by rw [hN]; decide) hN.ge (.inr (by rw [hN]; decide)) rfl hdrawn
    · exact mrtest_of_prime_of_one_byte (len := 3) (by rw [hN]; decide) (by omega) (.inr (by rw [hN]; decide)) rfl hdrawn
  case nine =>
    have hlen : IsBitLength (s.N - 3) 3 := .inr (by rw [hN]; decide)
    refine ⟨fun hdrawn => ?asks, fun x hdrawn => ?composite⟩
    case asks =>
      obtain ⟨-, -, hends⟩ := htest 3 1 [] (by omega) (by omega) hlen rfl
      obtain ⟨hasks, -⟩ := hends 0 hK (by decide) (by decide) (by omega)
      exact hasks hdrawn
    case composite =>
      obtain ⟨-, hfails, -⟩ := htest 3 1 [x] (by omega) (by omega) hlen rfl
      obtain ⟨hlow, hhigh⟩ := witness_range (n := s.N) (by omega) 1 0 [x]
      exact hfails 0 hK le_rfl hdrawn (by omega) (by rw [hN] at *; exact not_roundPasses_nine hlow hhigh)

end Sys2Proof.Machine

/-! PROOFS. The round trip of PAD and UNPAD (R113). -/

namespace Sys2Proof.Machine

/-- The search skips a string without 00 and stops at the separator behind it. -/
theorem afterSeparator_append {ps : List Byte} (hps : ∀ v ∈ ps, v ≠ 0x00#8) (chunk : List Byte) :
    afterSeparator (ps ++ 0x00#8 :: chunk) = some chunk := by
  induction ps with
  | nil => rfl
  | cons v vs ih =>
    obtain ⟨hv, hvs⟩ := List.forall_mem_cons.mp hps
    rw [List.cons_append, afterSeparator, if_neg hv, ih hvs]

theorem unpad_paddedBlock {ps : List Byte} (hps : ∀ v ∈ ps, v ≠ 0x00#8) (chunk : List Byte) :
    unpad (paddedBlock ps chunk) = some chunk :=
  afterSeparator_append hps chunk

/-- A string written at index 0 is read back. -/
theorem Memory.readBytes_writeBytes_zero (m : Memory) {vs : List Byte} {n : Nat} (hn : vs.length = n) :
    Memory.readBytes (Memory.writeBytes m 0 vs) 0 n = vs := by
  refine List.ext_getElem (by rw [Memory.length_readBytes, hn]) fun i hi hi' => ?_
  rw [← List.getD_eq_getElem _ 0#8 hi, ← List.getD_eq_getElem _ 0#8 hi', Memory.getD_readBytes _ _ _ _ (by omega),
    Nat.zero_add, Memory.read_writeBytes_zero, if_pos hi']

/-- A PAD that completes with OK has written a padding string without 00. -/
theorem exec_pad_ok {s t : State} (hle : s.BLKSIZE.toNat ≤ s.cfg.nb) (hfit : s.DLEN.toNat + 11 ≤ s.BLKSIZE.toNat)
    (hbusy : s.STATUS.BUSY = true) (h : exec .pad s = .next t) (hidle : t.STATUS.BUSY = false) (hok : t.RC = .ok) :
    ∃ ps : List Byte, ps.length = s.BLKSIZE.toNat - s.DLEN.toNat - 3 ∧ (∀ v ∈ ps, v ≠ 0x00#8) ∧
      t = complete { s with BLK := Memory.writeBytes s.BLK 0 (paddedBlock ps (chunkBytes s)) } := by
  rw [exec_pad_of_legal hle hfit] at h
  obtain ⟨bytes, _, hlength, _, hd⟩ | ⟨_, _, _, _, hd⟩ | ⟨_, _, _, hd⟩ :=
    drawNonZero_cases (s.BLKSIZE.toNat - s.DLEN.toNat - 3) s.drawn <;> rw [hd] at h <;> cases h
  · exact ⟨_, hlength, fun v hv => by simpa using (List.mem_filter.mp hv).2, rfl⟩
  · cases hok
  · exact absurd (hidle.symm.trans hbusy) (by decide)

/-- Settles O31: the block's bytes are the padded block, whose separator is the first 00 behind the header. -/
theorem unpadUndoesPad : Obligations.UnpadUndoesPad := by
  intro s t hfit hle hbusy h hidle hok
  obtain ⟨ps, hlength, hps, rfl⟩ := exec_pad_ok hle hfit hbusy h hidle hok
  have hblock : (paddedBlock ps (chunkBytes s)).length = s.BLKSIZE.toNat := by
    rw [length_paddedBlock, length_chunkBytes]
    omega
  have hread : unpad (blockBytes (startCommand 0x00000006#32
      (complete { s with BLK := Memory.writeBytes s.BLK 0 (paddedBlock ps (chunkBytes s)) }))) = some (chunkBytes s) := by
    rw [← unpad_paddedBlock hps (chunkBytes s)]
    exact congrArg unpad (Memory.readBytes_writeBytes_zero s.BLK hblock)
  refine ⟨_, exec_unpad_of_some (by exact hle) hread, ?length, rfl, rfl, fun a ha => ?copied⟩
  case length =>
    change BitVec.ofNat 32 (chunkBytes s).length = s.DLEN
    rw [length_chunkBytes, BitVec.ofNat_toNat, BitVec.setWidth_eq]
  case copied =>
    refine (Memory.read_writeBytes_readBytes s.DATA s.DATA 0 s.DLEN.toNat a).trans ?_
    rw [if_pos ha, Nat.zero_add]

end Sys2Proof.Machine

/-! PROOFS. What a command reads (R16): two states that agree on it see the same end of the command. -/

namespace Sys2Proof.Machine

/-! ### Two moves side by side -/

/-- The moves of command i from two states end alike: with one fatal code, with a request each, or with completions that
are related by P. -/
inductive EndAlike (i : Instr) (P : State → State → Prop) (s s' : State) : State → State → Prop where
  | raised (c : ResultCode) (fatal : c.fatal = true) : EndAlike i P s s' (raise c s) (raise c s')
  | requested (draws : i ∈ drawing) : EndAlike i P s s' (requestByte s) (requestByte s')
  | completed (u u' : State) (related : P (complete u) (complete u')) : EndAlike i P s s' (complete u) (complete u')

section
variable {i : Instr} {P : State → State → Prop} {s s' t t' : State}

/-- A check that strikes in both states or in neither. -/
theorem EndAlike.of_check {p p' : Prop} [Decidable p] [Decidable p'] {c : ResultCode} {r r' : Result}
    (h : (if p then .next (raise c s) else r) = .next t) (h' : (if p' then .next (raise c s') else r') = .next t')
    (same : p ↔ p') (fatal : c.fatal = true) (rest : ¬ p → r = .next t → r' = .next t' → EndAlike i P s s' t t') :
    EndAlike i P s s' t t' := by
  by_cases hp : p
  · rw [if_pos hp] at h
    rw [if_pos (same.mp hp)] at h'
    cases h
    cases h'
    exact .raised c fatal
  · rw [if_neg hp] at h
    rw [if_neg (mt same.mpr hp)] at h'
    exact rest hp h h'

/-- A draw that comes to the same in both states. -/
theorem EndAlike.of_settle {α : Type} {d d' : Draw α} {effect effect' : α → State} (h : settle d effect s = .next t)
    (h' : settle d' effect' s' = .next t') (same : d = d') (draws : i ∈ drawing)
    (done : ∀ v rest, d = .done v rest → P (complete (effect v)) (complete (effect' v))) : EndAlike i P s s' t t' := by
  subst same
  cases d <;> cases h <;> cases h'
  · exact .completed _ _ (done _ _ rfl)
  · exact .raised _ rfl
  · exact .requested draws

theorem EndAlike.of_complete {u u' : State} (h : (.next (complete u) : Result) = .next t)
    (h' : (.next (complete u') : Result) = .next t') (related : P (complete u) (complete u')) :
    EndAlike i P s s' t t' := by
  cases h
  cases h'
  exact .completed u u' related

/-- What a host sees of two moves that end alike, for a command that draws no byte. -/
theorem EndAlike.result (h : EndAlike i P s s' t t') (hi : i ∉ drawing) : t.RC = t'.RC ∧ (t.RC = .ok → P t t') := by
  cases h with
  | raised c fatal =>
    refine ⟨rfl, fun hok => ?_⟩
    obtain rfl : c = .ok := hok
    cases fatal
  | requested draws => exact absurd draws hi
  | completed u u' related => exact ⟨rfl, fun _ => related⟩

/-- What a host sees of two running moves that end alike. -/
theorem EndAlike.drawn_result (h : EndAlike i P s s' t t') (hbusy : s.STATUS.BUSY = true)
    (hbusy' : s'.STATUS.BUSY = true) :
    t.STATUS.BUSY = t'.STATUS.BUSY ∧ (t.STATUS.BUSY = false → t.RC = t'.RC ∧ (t.RC = .ok → P t t')) := by
  cases h with
  | raised c fatal =>
    refine ⟨rfl, fun _ => ⟨rfl, fun hok => ?_⟩⟩
    obtain rfl : c = .ok := hok
    cases fatal
  | requested draws => exact ⟨hbusy.trans hbusy'.symm, fun hidle => absurd (hidle.symm.trans hbusy) (by decide)⟩
  | completed u u' related => exact ⟨rfl, fun _ => ⟨rfl, fun _ => related⟩⟩

/-! ### Buffers that agree where they are read and written -/

theorem Memory.readBytes_congr {m m' : Memory} {a n : Nat}
    (h : ∀ b, a ≤ b → b < a + n → Memory.read m b = Memory.read m' b) :
    Memory.readBytes m a n = Memory.readBytes m' a n := by
  induction n generalizing a with
  | zero => rfl
  | succ n ih =>
    rw [Memory.readBytes, Memory.readBytes, h a le_rfl (by omega), ih fun b hlow hhigh => h b (by omega) (by omega)]

/-- Two buffers agree where the same string is written. -/
theorem Memory.read_writeBytes_congr (m m' : Memory) {vs : List Byte} {a : Nat} (ha : a < vs.length) :
    Memory.read (Memory.writeBytes m 0 vs) a = Memory.read (Memory.writeBytes m' 0 vs) a := by
  rw [Memory.read_writeBytes_zero, Memory.read_writeBytes_zero, if_pos ha, if_pos ha]

theorem blockBytes_congr (hsize : s.BLKSIZE = s'.BLKSIZE)
    (hblock : ∀ a, a < s.BLKSIZE.toNat → Memory.read s.BLK a = Memory.read s'.BLK a) : blockBytes s = blockBytes s' := by
  rw [blockBytes, blockBytes, ← hsize]
  exact Memory.readBytes_congr fun b _ hb => hblock b (by omega)

theorem chunkBytes_congr (hlen : s.DLEN = s'.DLEN)
    (hchunk : ∀ a, a < s.DLEN.toNat → Memory.read s.DATA a = Memory.read s'.DATA a) : chunkBytes s = chunkBytes s' := by
  rw [chunkBytes, chunkBytes, ← hlen]
  exact Memory.readBytes_congr fun b _ hb => hchunk b (by omega)

theorem blockTooLarge_congr (hcfg : s.cfg = s'.cfg) (hsize : s.BLKSIZE = s'.BLKSIZE) :
    blockTooLarge s = true ↔ blockTooLarge s' = true := by
  rw [blockTooLarge, blockTooLarge, hcfg, hsize]

/-! ### UNPAD -/

/-- UNPAD of two blocks with the same bytes: one failure, or two deliveries of one string to DATA. -/
theorem execUnpad_alike (hcfg : s.cfg = s'.cfg) (hsize : s.BLKSIZE = s'.BLKSIZE) (hblock : blockBytes s = blockBytes s')
    (h : exec .unpad s = .next t) (h' : exec .unpad s' = .next t') :
    (t = raise .badLength s ∧ t' = raise .badLength s') ∨
    (t = finish .invalidPadding (deliverRaw s) ∧ t' = finish .invalidPadding (deliverRaw s')) ∨
    ∃ chunk : List Byte, chunk.length ≤ s.BLKSIZE.toNat ∧
      t = complete { s with DATA := Memory.writeBytes s.DATA 0 chunk, DLEN := BitVec.ofNat 32 chunk.length } ∧
      t' = complete { s' with DATA := Memory.writeBytes s'.DATA 0 chunk, DLEN := BitVec.ofNat 32 chunk.length } := by
  have hlarge := blockTooLarge_congr hcfg hsize
  by_cases hfits : blockTooLarge s = true
  · cases (if_pos hfits).symm.trans h
    cases (if_pos (hlarge.mp hfits)).symm.trans h'
    exact .inl ⟨rfl, rfl⟩
  · have hle := blksize_le_nb hfits
    have hle' := blksize_le_nb (mt hlarge.mpr hfits)
    cases hchunk : unpad (blockBytes s) with
    | none =>
      cases (exec_unpad_of_none hle hchunk).symm.trans h
      cases (exec_unpad_of_none hle' (hblock ▸ hchunk)).symm.trans h'
      exact .inr (.inl ⟨rfl, rfl⟩)
    | some chunk =>
      cases (exec_unpad_of_some hle hchunk).symm.trans h
      cases (exec_unpad_of_some hle' (hblock ▸ hchunk)).symm.trans h'
      exact .inr (.inr ⟨chunk, length_blockBytes s ▸ length_unpad_le hchunk, rfl, rfl⟩)

theorem execUnpad_result (hcfg : s.cfg = s'.cfg) (hsize : s.BLKSIZE = s'.BLKSIZE) (hblock : blockBytes s = blockBytes s')
    (h : exec .unpad s = .next t) (h' : exec .unpad s' = .next t') :
    t.RC = t'.RC ∧
    (t.RC ≠ .badLength → t.DLEN = t'.DLEN ∧ ∀ a, a < t.DLEN.toNat → Memory.read t.DATA a = Memory.read t'.DATA a) ∧
    (s.STATUS.PADFB = s'.STATUS.PADFB → t.STATUS.PADFB = t'.STATUS.PADFB) ∧ (s.FBCNT = s'.FBCNT → t.FBCNT = t'.FBCNT) := by
  obtain ⟨rfl, rfl⟩ | ⟨rfl, rfl⟩ | ⟨chunk, hlength, rfl, rfl⟩ := execUnpad_alike hcfg hsize hblock h h'
  · exact ⟨rfl, absurd rfl, id, id⟩
  · refine ⟨rfl, fun _ => ⟨hsize, fun a ha => ?_⟩, fun _ => rfl, congrArg saturatingSucc⟩
    simp only [finish_DATA, deliverRaw, ← hblock]
    exact Memory.read_writeBytes_congr _ _ (length_blockBytes s ▸ ha)
  · refine ⟨rfl, fun _ => ⟨rfl, fun a ha => Memory.read_writeBytes_congr _ _ ?_⟩, id, id⟩
    have hDLEN : (BitVec.ofNat 32 chunk.length).toNat = chunk.length :=
      Nat.mod_eq_of_lt (hlength.trans_lt s.BLKSIZE.isLt)
    exact ha.trans_eq hDLEN

/-- A start has cleared PADFB (R119). -/
theorem State.Inv.PADFB_of_busy (hinv : s.Inv) (hbusy : s.STATUS.BUSY = true) : s.STATUS.PADFB = false := by
  obtain ⟨-, -, -, hpadfb, -⟩ := hinv.busyFlags hbusy
  exact hpadfb

/-! ### The commands that write a byte string to BLK -/

section
variable (hcfg : s.cfg = s'.cfg) (hsize : s.BLKSIZE = s'.BLKSIZE)
include hcfg hsize

theorem execPad_alike (hlen : s.DLEN = s'.DLEN) (hdrawn : s.drawn = s'.drawn) (hchunk : chunkBytes s = chunkBytes s')
    (h : exec .pad s = .next t) (h' : exec .pad s' = .next t') :
    EndAlike .pad (fun t t' => ∀ a, a < s.BLKSIZE.toNat → Memory.read t.BLK a = Memory.read t'.BLK a) s s' t t' := by
  refine .of_check h h' (blockTooLarge_congr hcfg hsize) rfl fun _ h h' => ?_
  refine .of_check h h' (by rw [hsize, hlen]) rfl fun hlong h h' => ?_
  refine .of_settle h h' (by rw [hsize, hlen, hdrawn]) (by decide) fun ps rest hdraw a ha => ?_
  simp only [complete_BLK, ← hchunk]
  refine Memory.read_writeBytes_congr _ _ ?_
  rw [length_paddedBlock, length_of_drawNonZero hdraw, length_chunkBytes]
  omega

theorem execInt2blk_alike (hR : s.R = s'.R) (h : exec .int2blk s = .next t) (h' : exec .int2blk s' = .next t') :
    EndAlike .int2blk (fun t t' => ∀ a, a < s.BLKSIZE.toNat → Memory.read t.BLK a = Memory.read t'.BLK a) s s' t t' := by
  refine .of_check h h' (blockTooLarge_congr hcfg hsize) rfl fun _ h h' => ?_
  refine .of_check h h' (by rw [hsize, hR]) rfl fun _ h h' => .of_complete h h' fun a ha => ?_
  simp only [complete_BLK, ← hsize, ← hR]
  exact Memory.read_writeBytes_congr _ _ (ha.trans_eq (length_int2be _ _).symm)

end

end

/-- Settles O10: the checks and the draws of each command are the same in both states, and so are the values it writes;
UNPAD, with an end of its own, is `execUnpad_result`. -/
theorem commandsReadOnlyWhatIsListed : Obligations.CommandsReadOnlyWhatIsListed := by
  intro s s' t t' hcfg hdrawn
  refine ⟨fun hA hB hN h h' => ?montmul, fun hA hB hN h h' => ?modmul, fun hA hE hN h h' => ?modexp,
    fun hN hK hbusy hbusy' h h' => ?mrtest, fun hsize hlen hbusy hbusy' hchunk h h' => ?pad,
    fun hsize hblock h h' => ?unpad, fun hlen hbusy hbusy' h h' => ?randbits, fun hA hB hbusy hbusy' h h' => ?randrange,
    fun hsize hblock h h' => ?blk2int, fun hsize hR h h' => ?int2blk⟩
  case montmul =>
    refine EndAlike.result (i := .montmul) (P := fun t t' => t.R = t'.R) (.of_check h h' (by rw [hN]) rfl fun _ h h' =>
      .of_check h h' (by rw [hN]) rfl fun _ h h' => .of_complete h h' ?_) (by decide)
    simp only [complete_R, hcfg, hA, hB, hN]
  case modmul =>
    refine EndAlike.result (i := .modmul) (P := fun t t' => t.R = t'.R) (.of_check h h' (by rw [hN]) rfl fun _ h h' =>
      .of_complete h h' ?_) (by decide)
    simp only [complete_R, hA, hB, hN]
  case modexp =>
    refine EndAlike.result (i := .modexp) (P := fun t t' => t.R = t'.R) (.of_check h h' (by rw [hN]) rfl fun _ h h' =>
      .of_complete h h' ?_) (by decide)
    simp only [complete_R, hA, hE, hN]
  case mrtest =>
    exact EndAlike.drawn_result (i := .mrtest)
      (P := fun t t' => t.STATUS.PRIME = t'.STATUS.PRIME ∧ t.RNDCNT = t'.RNDCNT)
      (.of_settle h h' (by rw [hN, hK, hdrawn]) (by decide) fun _ _ _ => ⟨rfl, rfl⟩) hbusy hbusy'
  case pad => exact (execPad_alike hcfg hsize hlen hdrawn (chunkBytes_congr hlen hchunk) h h').drawn_result hbusy hbusy'
  case unpad =>
    obtain ⟨hRC, hDATA, hPADFB, hFBCNT⟩ := execUnpad_result hcfg hsize (blockBytes_congr hsize hblock) h h'
    exact ⟨hRC, hDATA, fun hinv hinv' hbusy hbusy' =>
      hPADFB ((hinv.PADFB_of_busy hbusy).trans (hinv'.PADFB_of_busy hbusy').symm), hFBCNT⟩
  case randbits =>
    exact EndAlike.drawn_result (i := .randbits) (P := fun t t' => t.R = t'.R)
      (.of_check h h' (by rw [hcfg, hlen]) rfl fun _ h h' =>
        .of_settle h h' (by rw [hlen, hdrawn]) (by decide) fun _ _ _ => rfl) hbusy hbusy'
  case randrange =>
    exact EndAlike.drawn_result (i := .randrange) (P := fun t t' => t.R = t'.R)
      (.of_check h h' (by rw [hA, hB]) rfl fun _ h h' =>
        .of_settle h h' (by rw [hA, hB, hdrawn]) (by decide) fun _ _ _ => rfl) hbusy hbusy'
  case blk2int =>
    exact EndAlike.result (i := .blk2int) (P := fun t t' => t.A = t'.A)
      (.of_check h h' (blockTooLarge_congr hcfg hsize) rfl fun _ h h' =>
        .of_complete h h' (congrArg be2int (blockBytes_congr hsize hblock))) (by decide)
  case int2blk => exact (execInt2blk_alike hcfg hsize hR h h').result (by decide)

end Sys2Proof.Machine
